-- ==== Sys2Proof/Word.lean ====
section
/-! DEFINITION. The machine's word types: a byte (00_scope.md R8, 10_state.md R20), a 16-bit word
(10_state.md R22, R23; 30_encoding.md R75) and a 12-bit address field (30_encoding.md R76). -/

namespace Sys2Proof

/-- A byte: a general register, a timer, a byte of memory, an immediate `nn`. -/
abbrev Byte := BitVec 8

/-- A 16-bit word: PC, I, IR, a stack slot, an instruction. -/
abbrev Word := BitVec 16

/-- The 12-bit immediate address `nnn` (R76). -/
abbrev Addr12 := BitVec 12

/-- A general register's number, 0..15 by construction (R20). -/
abbrev RegNo := Fin 16

/-- The 16-key snapshot: element k is true when key k is pressed (R26, R100). -/
abbrev Keys := Vector Bool 16

/-- VF's register number (R21). -/
abbrev regF : RegNo := 15

end Sys2Proof
end

