-- ==== Sys2Proof/Config.lean ====
section
/-! DEFINITION. What is fixed for one machine: the sizes and addresses of 00_scope.md R5, the
parameters that R5 asks a model to take as arguments, and the free values (step inputs the host
has not said). -/

namespace Sys2Proof

/-- Bytes of memory, 0x000..0xFFF (R5, R50). -/
abbrev memSize : Nat := 0x1000

/-- The first address of the font area and its length, 16 glyphs of 5 bytes (R5, R31). -/
abbrev fontBase : Nat := 0x050

/-- Bytes of the font (R31). -/
abbrev fontSize : Nat := 80

/-- Where a ROM is copied and where a program starts (R5, R250). -/
abbrev romBase : Nat := 0x200

/-- The longest ROM that initialize accepts (R5, R251). -/
abbrev maxRom : Nat := 3584

/-- The policy of FX1E when I + V[x] passes 0xFFFF. The spec defines this one value (R5, R202, D16). -/
inductive IndexOverflow where
  | wrap16
  deriving DecidableEq, Repr

/-- The machine's parameters (R5: "A parameter named in capitals with a default is one that a model
takes as an argument"). They stand in State (log entry 4), so a statement about every state holds
for every value of them. -/
structure Config where
  /-- `FONT`, the bytes initialize writes at 0x050 (R31, D12; log entry 1). -/
  font : Vector Byte fontSize
  /-- `INDEX_OVERFLOW` (R202, D16; log entry 3). -/
  indexOverflow : IndexOverflow
  /-- `UNKNOWN_TICKS_TIMERS` (R107, D8; log entry 2). -/
  unknownTicksTimers : Bool
  deriving DecidableEq, Repr

/-- FREE VALUE: the keypad snapshot of the step with this index, where the state's list of step
inputs does not give one (R100; log entry 5). Nothing constrains it. -/
opaque Config.freeKeys : Nat → Keys

/-- FREE VALUE: the random byte of the step with this index, where the state's list of step inputs
does not give one (R153, D3, I8; log entry 5). Nothing constrains it. -/
opaque Config.freeRandom : Nat → Byte

end Sys2Proof
end

