-- ==== Sys2Proof/Syntax.lean ====
section
/-! DEFINITION. The syntax: the six fields of an instruction word (30_encoding.md R76) and one
constructor for each of the 34 rows of spec/opcode_table.json, named by the row's pattern, which is
the normative name (R85). The conventional mnemonic of R85 stands in each docstring. -/

namespace Sys2Proof

/-- The six fields the decoder extracts from every word (R76, R104). -/
structure Fields where
  /-- w[15:12] -/
  opClass : BitVec 4
  /-- w[11:8] -/
  x : BitVec 4
  /-- w[7:4] -/
  y : BitVec 4
  /-- w[3:0] -/
  n : BitVec 4
  /-- w[7:0] -/
  nn : BitVec 8
  /-- w[11:0] -/
  nnn : Addr12
  deriving DecidableEq, Repr

/-- One constructor per instruction. Operands: `x`, `y` register numbers, `nnn` a 12-bit address,
`nn` a byte, `n` a row count 0..15 (R76, R78). -/
inductive Instr where
  /-- 00E0 `CLS` -/
  | op00E0
  /-- 00EE `RET` -/
  | op00EE
  /-- 1NNN `JP nnn` -/
  | op1NNN (nnn : Addr12)
  /-- 2NNN `CALL nnn` -/
  | op2NNN (nnn : Addr12)
  /-- 3XNN `SE Vx, nn` -/
  | op3XNN (x : RegNo) (nn : Byte)
  /-- 4XNN `SNE Vx, nn` -/
  | op4XNN (x : RegNo) (nn : Byte)
  /-- 5XY0 `SE Vx, Vy` -/
  | op5XY0 (x y : RegNo)
  /-- 6XNN `LD Vx, nn` -/
  | op6XNN (x : RegNo) (nn : Byte)
  /-- 7XNN `ADD Vx, nn` -/
  | op7XNN (x : RegNo) (nn : Byte)
  /-- 8XY0 `LD Vx, Vy` -/
  | op8XY0 (x y : RegNo)
  /-- 8XY1 `OR Vx, Vy` -/
  | op8XY1 (x y : RegNo)
  /-- 8XY2 `AND Vx, Vy` -/
  | op8XY2 (x y : RegNo)
  /-- 8XY3 `XOR Vx, Vy` -/
  | op8XY3 (x y : RegNo)
  /-- 8XY4 `ADD Vx, Vy` -/
  | op8XY4 (x y : RegNo)
  /-- 8XY5 `SUB Vx, Vy` -/
  | op8XY5 (x y : RegNo)
  /-- 8XY6 `SHR Vx, Vy`; y is encoded and ignored (R150) -/
  | op8XY6 (x y : RegNo)
  /-- 8XY7 `SUBN Vx, Vy` -/
  | op8XY7 (x y : RegNo)
  /-- 8XYE `SHL Vx, Vy`; y is encoded and ignored (R152) -/
  | op8XYE (x y : RegNo)
  /-- 9XY0 `SNE Vx, Vy` -/
  | op9XY0 (x y : RegNo)
  /-- ANNN `LD I, nnn` -/
  | opANNN (nnn : Addr12)
  /-- BNNN `JP V0, nnn` -/
  | opBNNN (nnn : Addr12)
  /-- CXNN `RND Vx, nn` -/
  | opCXNN (x : RegNo) (nn : Byte)
  /-- DXYN `DRW Vx, Vy, n` -/
  | opDXYN (x y : RegNo) (n : Fin 16)
  /-- EX9E `SKP Vx` -/
  | opEX9E (x : RegNo)
  /-- EXA1 `SKNP Vx` -/
  | opEXA1 (x : RegNo)
  /-- FX07 `LD Vx, DT` -/
  | opFX07 (x : RegNo)
  /-- FX0A `LD Vx, K` -/
  | opFX0A (x : RegNo)
  /-- FX15 `LD DT, Vx` -/
  | opFX15 (x : RegNo)
  /-- FX18 `LD ST, Vx` -/
  | opFX18 (x : RegNo)
  /-- FX1E `ADD I, Vx` -/
  | opFX1E (x : RegNo)
  /-- FX29 `LD F, Vx` -/
  | opFX29 (x : RegNo)
  /-- FX33 `LD B, Vx` -/
  | opFX33 (x : RegNo)
  /-- FX55 `LD [I], Vx` -/
  | opFX55 (x : RegNo)
  /-- FX65 `LD Vx, [I]` -/
  | opFX65 (x : RegNo)
  deriving DecidableEq, Repr

end Sys2Proof
end

