-- ==== Sys2Proof/WellFormed.lean ====
section
/-! DEFINITION. What a well-formed input is. An `Instr` carries the ranges of its operands in their
types (10_state.md R20: a register index "restricted to 0–15 by construction"; R76's widths for the
immediates), so EVERY `Instr` is well formed and no check is left to make of it. Two things the host
or the decoder hands around can be ill formed: a record of fields whose overlapping fields disagree
(R76), and a ROM that is too long (R251). -/

namespace Sys2Proof

/-- The fields overlap: `nn` is `y:n` (R76). -/
def Fields.nnAgrees (f : Fields) : Bool := f.nn == f.y ++ f.n

/-- The fields overlap: `nnn` is `x:y:n` (R76). -/
def Fields.nnnAgrees (f : Fields) : Bool := f.nnn == f.x ++ (f.y ++ f.n)

/-- A record of fields that some instruction word has. -/
def Fields.wellFormed (f : Fields) : Bool := f.nnAgrees && f.nnnAgrees

/-- The input contract of initialize: "an ordered byte sequence of length ≤ 3584" (R250, R251). -/
def romWellFormed (rom : List Byte) : Bool := decide (rom.length ≤ maxRom)

end Sys2Proof
end

