-- ==== Sys2Proof/Decode.lean ====
section
/-! DEFINITION. Instruction words: the decoder (30_encoding.md R75-R84), total on words and on byte
lists, the encoder written from the formats of R77, the rows of spec/opcode_table.json, and the two
byte-order helpers (20_memory.md R52). -/

namespace Sys2Proof

/-- Big-endian: the byte at the lower address is the most significant (R52). -/
def joinBytes (hi lo : Byte) : Word := hi ++ lo

/-- The byte of a word that stands at the lower address (R52). -/
def hiByte (w : Word) : Byte := w.extractLsb' 8 8

/-- The byte of a word that stands at the higher address (R52). -/
def loByte (w : Word) : Byte := w.extractLsb' 0 8

/-- Field extraction, the same six fields for every word (R76, R104). -/
def fieldsOf (w : Word) : Fields where
  opClass := w.extractLsb' 12 4
  x := w.extractLsb' 8 4
  y := w.extractLsb' 4 4
  n := w.extractLsb' 0 4
  nn := w.extractLsb' 0 8
  nnn := w.extractLsb' 0 12

/-- Class 0x0: the whole word is matched (R80, D4). -/
def dispatchClass0 (nnn : Addr12) : Option Instr :=
  if nnn = 0x0E0 then some .op00E0
  else if nnn = 0x0EE then some .op00EE
  else none

/-- Class 0x8: secondary dispatch on `n` (R81). -/
def dispatchClass8 (x y : RegNo) (n : BitVec 4) : Option Instr :=
  match n.toNat with
  | 0x0 => some (.op8XY0 x y)
  | 0x1 => some (.op8XY1 x y)
  | 0x2 => some (.op8XY2 x y)
  | 0x3 => some (.op8XY3 x y)
  | 0x4 => some (.op8XY4 x y)
  | 0x5 => some (.op8XY5 x y)
  | 0x6 => some (.op8XY6 x y)
  | 0x7 => some (.op8XY7 x y)
  | 0xE => some (.op8XYE x y)
  | _ => none

/-- Class 0xE: secondary dispatch on `nn` (R82). -/
def dispatchClassE (x : RegNo) (nn : Byte) : Option Instr :=
  if nn = 0x9E then some (.opEX9E x)
  else if nn = 0xA1 then some (.opEXA1 x)
  else none

/-- Class 0xF: secondary dispatch on `nn` (R82). -/
def dispatchClassF (x : RegNo) (nn : Byte) : Option Instr :=
  if nn = 0x07 then some (.opFX07 x)
  else if nn = 0x0A then some (.opFX0A x)
  else if nn = 0x15 then some (.opFX15 x)
  else if nn = 0x18 then some (.opFX18 x)
  else if nn = 0x1E then some (.opFX1E x)
  else if nn = 0x29 then some (.opFX29 x)
  else if nn = 0x33 then some (.opFX33 x)
  else if nn = 0x55 then some (.opFX55 x)
  else if nn = 0x65 then some (.opFX65 x)
  else none

/-- Primary dispatch on `opClass` (R79). Classes 0x5 and 0x9 also require `n = 0` (D4, C7). -/
def dispatch (f : Fields) : Option Instr :=
  match f.opClass.toNat with
  | 0x0 => dispatchClass0 f.nnn
  | 0x1 => some (.op1NNN f.nnn)
  | 0x2 => some (.op2NNN f.nnn)
  | 0x3 => some (.op3XNN f.x.toFin f.nn)
  | 0x4 => some (.op4XNN f.x.toFin f.nn)
  | 0x5 => if f.n = 0 then some (.op5XY0 f.x.toFin f.y.toFin) else none
  | 0x6 => some (.op6XNN f.x.toFin f.nn)
  | 0x7 => some (.op7XNN f.x.toFin f.nn)
  | 0x8 => dispatchClass8 f.x.toFin f.y.toFin f.n
  | 0x9 => if f.n = 0 then some (.op9XY0 f.x.toFin f.y.toFin) else none
  | 0xA => some (.opANNN f.nnn)
  | 0xB => some (.opBNNN f.nnn)
  | 0xC => some (.opCXNN f.x.toFin f.nn)
  | 0xD => some (.opDXYN f.x.toFin f.y.toFin f.n.toFin)
  | 0xE => dispatchClassE f.x.toFin f.nn
  | _ => dispatchClassF f.x.toFin f.nn

/-- What a word decodes to: one of the 34 instructions, or `Unknown(w)` (R84, R104). -/
inductive Decoded where
  | instr (i : Instr)
  | unknown (w : Word)
  deriving DecidableEq, Repr

/-- The decoder: total, a function of the word alone (R84, R104). -/
def decode (w : Word) : Decoded :=
  match dispatch (fieldsOf w) with
  | some i => .instr i
  | none => .unknown w

/-- Why a list of bytes is not an instruction. -/
inductive DecodeReject where
  /-- Fewer than two bytes are left (R75: every instruction is two bytes). -/
  | truncated (bytes : List Byte)
  /-- The word matches no row of the table (R83). -/
  | unknownOpcode (w : Word)
  deriving DecidableEq, Repr

/-- Decoding a list of bytes: the first instruction and the bytes after it (R75, R52). -/
def decodeBytes : List Byte → Except DecodeReject (Instr × List Byte)
  | hi :: lo :: rest =>
    match decode (joinBytes hi lo) with
    | .instr i => .ok (i, rest)
    | .unknown w => .error (.unknownOpcode w)
  | bytes => .error (.truncated bytes)

/-- The first instruction word of a table row's bits `w`, numbered as spec/opcode_table.json numbers
them (bit 0 the least significant bit of the word); bits above `nbits` are 0. -/
def tableWord (nbits w : Nat) : Word := BitVec.ofNat 16 (w % 2 ^ nbits)

/-- What the decoder reads from an instruction whose table bits are `w`, laid out in memory order. -/
def decodeTableWord (nbits w : Nat) : Option Instr :=
  match decodeBytes [hiByte (tableWord nbits w), loByte (tableWord nbits w)] with
  | .ok (i, _) => some i
  | .error _ => none

/-! The encoder, by the six formats of R77. -/

/-- Format NNN: `cccc nnnn nnnn nnnn`. -/
def formatNNN (c : BitVec 4) (nnn : Addr12) : Word := c ++ nnn

/-- Format XNN: `cccc xxxx nnnn nnnn`. -/
def formatXNN (c : BitVec 4) (x : RegNo) (nn : Byte) : Word := c ++ (BitVec.ofFin (w := 4) x ++ nn)

/-- Formats XYS and XYN: `cccc xxxx yyyy nnnn`; in XYS the low nibble is a sub-opcode. -/
def formatXYN (c : BitVec 4) (x y : RegNo) (n : BitVec 4) : Word :=
  c ++ (BitVec.ofFin (w := 4) x ++ (BitVec.ofFin (w := 4) y ++ n))

/-- The word of an instruction (R77 and the `encoding` column of spec/opcode_table.json). Format FIX
is the word itself, format XS is XNN with the low byte as sub-opcode. -/
def encode : Instr → Word
  | .op00E0 => 0x00E0
  | .op00EE => 0x00EE
  | .op1NNN nnn => formatNNN 0x1 nnn
  | .op2NNN nnn => formatNNN 0x2 nnn
  | .op3XNN x nn => formatXNN 0x3 x nn
  | .op4XNN x nn => formatXNN 0x4 x nn
  | .op5XY0 x y => formatXYN 0x5 x y 0x0
  | .op6XNN x nn => formatXNN 0x6 x nn
  | .op7XNN x nn => formatXNN 0x7 x nn
  | .op8XY0 x y => formatXYN 0x8 x y 0x0
  | .op8XY1 x y => formatXYN 0x8 x y 0x1
  | .op8XY2 x y => formatXYN 0x8 x y 0x2
  | .op8XY3 x y => formatXYN 0x8 x y 0x3
  | .op8XY4 x y => formatXYN 0x8 x y 0x4
  | .op8XY5 x y => formatXYN 0x8 x y 0x5
  | .op8XY6 x y => formatXYN 0x8 x y 0x6
  | .op8XY7 x y => formatXYN 0x8 x y 0x7
  | .op8XYE x y => formatXYN 0x8 x y 0xE
  | .op9XY0 x y => formatXYN 0x9 x y 0x0
  | .opANNN nnn => formatNNN 0xA nnn
  | .opBNNN nnn => formatNNN 0xB nnn
  | .opCXNN x nn => formatXNN 0xC x nn
  | .opDXYN x y n => formatXYN 0xD x y (BitVec.ofFin (w := 4) n)
  | .opEX9E x => formatXNN 0xE x 0x9E
  | .opEXA1 x => formatXNN 0xE x 0xA1
  | .opFX07 x => formatXNN 0xF x 0x07
  | .opFX0A x => formatXNN 0xF x 0x0A
  | .opFX15 x => formatXNN 0xF x 0x15
  | .opFX18 x => formatXNN 0xF x 0x18
  | .opFX1E x => formatXNN 0xF x 0x1E
  | .opFX29 x => formatXNN 0xF x 0x29
  | .opFX33 x => formatXNN 0xF x 0x33
  | .opFX55 x => formatXNN 0xF x 0x55
  | .opFX65 x => formatXNN 0xF x 0x65

/-- The two bytes of an instruction in memory order (R52, R75). -/
def encodeBytes (i : Instr) : List Byte := [hiByte (encode i), loByte (encode i)]

/-- The `match` and `mask` columns of one row of spec/opcode_table.json. -/
structure OpcodeRow where
  value : Word
  mask : Word
  deriving DecidableEq, Repr

/-- A word matches a row when it has the row's value under the row's mask. -/
def OpcodeRow.accepts (r : OpcodeRow) (w : Word) : Bool := w &&& r.mask == r.value

/-- The row of spec/opcode_table.json an instruction belongs to. -/
def Instr.row : Instr → OpcodeRow
  | .op00E0 => ⟨0x00E0, 0xFFFF⟩
  | .op00EE => ⟨0x00EE, 0xFFFF⟩
  | .op1NNN _ => ⟨0x1000, 0xF000⟩
  | .op2NNN _ => ⟨0x2000, 0xF000⟩
  | .op3XNN _ _ => ⟨0x3000, 0xF000⟩
  | .op4XNN _ _ => ⟨0x4000, 0xF000⟩
  | .op5XY0 _ _ => ⟨0x5000, 0xF00F⟩
  | .op6XNN _ _ => ⟨0x6000, 0xF000⟩
  | .op7XNN _ _ => ⟨0x7000, 0xF000⟩
  | .op8XY0 _ _ => ⟨0x8000, 0xF00F⟩
  | .op8XY1 _ _ => ⟨0x8001, 0xF00F⟩
  | .op8XY2 _ _ => ⟨0x8002, 0xF00F⟩
  | .op8XY3 _ _ => ⟨0x8003, 0xF00F⟩
  | .op8XY4 _ _ => ⟨0x8004, 0xF00F⟩
  | .op8XY5 _ _ => ⟨0x8005, 0xF00F⟩
  | .op8XY6 _ _ => ⟨0x8006, 0xF00F⟩
  | .op8XY7 _ _ => ⟨0x8007, 0xF00F⟩
  | .op8XYE _ _ => ⟨0x800E, 0xF00F⟩
  | .op9XY0 _ _ => ⟨0x9000, 0xF00F⟩
  | .opANNN _ => ⟨0xA000, 0xF000⟩
  | .opBNNN _ => ⟨0xB000, 0xF000⟩
  | .opCXNN _ _ => ⟨0xC000, 0xF000⟩
  | .opDXYN _ _ _ => ⟨0xD000, 0xF000⟩
  | .opEX9E _ => ⟨0xE09E, 0xF0FF⟩
  | .opEXA1 _ => ⟨0xE0A1, 0xF0FF⟩
  | .opFX07 _ => ⟨0xF007, 0xF0FF⟩
  | .opFX0A _ => ⟨0xF00A, 0xF0FF⟩
  | .opFX15 _ => ⟨0xF015, 0xF0FF⟩
  | .opFX18 _ => ⟨0xF018, 0xF0FF⟩
  | .opFX1E _ => ⟨0xF01E, 0xF0FF⟩
  | .opFX29 _ => ⟨0xF029, 0xF0FF⟩
  | .opFX33 _ => ⟨0xF033, 0xF0FF⟩
  | .opFX55 _ => ⟨0xF055, 0xF0FF⟩
  | .opFX65 _ => ⟨0xF065, 0xF0FF⟩

/-- All 34 rows of spec/opcode_table.json, in the table's order, each through one instruction of it. -/
def opcodeTable : List OpcodeRow :=
  [Instr.op00E0, .op00EE, .op1NNN 0, .op2NNN 0, .op3XNN 0 0, .op4XNN 0 0, .op5XY0 0 0].map Instr.row
  ++ [Instr.op6XNN 0 0, .op7XNN 0 0, .op8XY0 0 0, .op8XY1 0 0, .op8XY2 0 0, .op8XY3 0 0].map Instr.row
  ++ [Instr.op8XY4 0 0, .op8XY5 0 0, .op8XY6 0 0, .op8XY7 0 0, .op8XYE 0 0, .op9XY0 0 0].map Instr.row
  ++ [Instr.opANNN 0, .opBNNN 0, .opCXNN 0 0, .opDXYN 0 0 0, .opEX9E 0, .opEXA1 0].map Instr.row
  ++ [Instr.opFX07 0, .opFX0A 0, .opFX15 0, .opFX18 0, .opFX1E 0, .opFX29 0].map Instr.row
  ++ [Instr.opFX33 0, .opFX55 0, .opFX65 0].map Instr.row

end Sys2Proof
end

