-- ==== Sys2Proof/Machine/Memory.lean ====
section
/-! DEFINITION. The 4096-byte memory (20_memory.md) as a list of (address, byte) pairs in one
canonical form, what an address that is not listed reads as, and the default font bytes. -/

namespace Sys2Proof.Machine

/-- Memory: the bytes that differ from the reset contents, addresses strictly rising. -/
abbrev Memory := List Host.Cell

/-- The default of `FONT` (10_state.md R31, G1), one line per glyph, 0 to F. PRESUMED (log entry 1). -/
def fontBytes : List Byte :=
  [0xF0, 0x90, 0x90, 0x90, 0xF0]
  ++ [0x20, 0x60, 0x20, 0x20, 0x70]
  ++ [0xF0, 0x10, 0xF0, 0x80, 0xF0]
  ++ [0xF0, 0x10, 0xF0, 0x10, 0xF0]
  ++ [0x90, 0x90, 0xF0, 0x10, 0x10]
  ++ [0xF0, 0x80, 0xF0, 0x10, 0xF0]
  ++ [0xF0, 0x80, 0xF0, 0x90, 0xF0]
  ++ [0xF0, 0x10, 0x20, 0x40, 0x40]
  ++ [0xF0, 0x90, 0xF0, 0x90, 0xF0]
  ++ [0xF0, 0x90, 0xF0, 0x10, 0xF0]
  ++ [0xF0, 0x90, 0xF0, 0x90, 0x90]
  ++ [0xE0, 0x90, 0xE0, 0x90, 0xE0]
  ++ [0xF0, 0x80, 0x80, 0x80, 0xF0]
  ++ [0xE0, 0x90, 0x90, 0x90, 0xE0]
  ++ [0xF0, 0x80, 0xF0, 0x80, 0xF0]
  ++ [0xF0, 0x80, 0xF0, 0x80, 0x80]

/-- The 80 default font bytes in memory order (R31). -/
def defaultFont : Vector Byte fontSize := Vector.ofFn fun k => fontBytes.getD k.val 0

/-- The address decoder (R50, R55): the addresses 0x000..0xFFF exist. -/
def addressExists (a : Nat) : Bool := decide (a < memSize)

/-- What an address that is not listed reads as: the reset contents with no ROM loaded (R29, R30),
the font at 0x050..0x09F and 0 elsewhere. -/
def Memory.background (font : Vector Byte fontSize) (a : Nat) : Byte :=
  if h : fontBase ≤ a ∧ a < fontBase + fontSize then font[a - fontBase]'(by omega) else 0

/-- The byte listed for an address, if any. -/
def Memory.lookup : Memory → Nat → Option Byte
  | [], _ => none
  | (k, v) :: rest, a => if k = a then some v else Memory.lookup rest a

/-- The byte at an address (R55; R62: reading has no side effect). -/
def Memory.read (font : Vector Byte fontSize) (m : Memory) (a : Nat) : Byte :=
  (m.lookup a).getD (Memory.background font a)

/-- List `v` for address `a`, in place of any byte listed for it. -/
def Memory.insert (a : Nat) (v : Byte) : Memory → Memory
  | [] => [(a, v)]
  | (k, w) :: rest =>
    if a < k then (a, v) :: (k, w) :: rest
    else if a = k then (a, v) :: rest
    else (k, w) :: Memory.insert a v rest

/-- Take address `a` off the list. -/
def Memory.erase (a : Nat) : Memory → Memory
  | [] => []
  | (k, w) :: rest => if k = a then rest else (k, w) :: Memory.erase a rest

/-- Write a byte (R55), keeping the canonical form: the reset value of an address is never listed. -/
def Memory.write (font : Vector Byte fontSize) (m : Memory) (a : Nat) (v : Byte) : Memory :=
  if v = Memory.background font a then m.erase a else m.insert a v

/-- The canonical form: addresses strictly rising, each one exists, and no listed byte is what the
address reads as when it is not listed. -/
abbrev Memory.wf (font : Vector Byte fontSize) (m : Memory) : Prop :=
  m.Pairwise (fun c d => c.1 < d.1) ∧ ∀ c ∈ m, c.1 < memSize ∧ c.2 ≠ Memory.background font c.1

end Sys2Proof.Machine
end

