-- ==== Sys2Proof/Machine/State.lean ====
section
/-! DEFINITION. The machine's state: every field of 10_state.md, and after them the model's own
fields for what the spec gives as parameters, inputs and outputs of a step. Plain data throughout. -/

namespace Sys2Proof.Machine

/-- The framebuffer latch, row by row: 32 rows of 64 one-bit pixels (R27, R170). -/
abbrev Framebuffer := Vector (Vector Bool 64) 32

/-- The inputs of one step (R100): the 16-key snapshot and the random byte. -/
structure StepInput where
  keys : Keys
  rnd : Byte
  deriving DecidableEq, Repr

/-- The non-fatal result of the last step (R100, R108). Fatal results are `Fault`. -/
inductive Report where
  /-- No step has completed since initialize. -/
  | noStep
  /-- The step returned Ok. -/
  | ok
  /-- The step reported UnknownOpcode with this instruction word (R106, R225). -/
  | unknownOpcode (w : Word)
  deriving DecidableEq, Repr

/-- Machine State (10_state.md), and the model's own fields. -/
structure State where
  /-- V0..VF (R20). -/
  v : Vector Byte 16
  /-- I, the index register (R23). -/
  i : Word
  /-- PC (R22). -/
  pc : Word
  /-- SP, 0..16: the slots in use (R24). -/
  sp : Fin 17
  /-- The return-address stack (R24). -/
  stack : Vector Word 16
  /-- DT, the delay timer (R25). -/
  dt : Byte
  /-- ST, the sound timer (R25). -/
  st : Byte
  /-- KEY, the key latch (R26). -/
  key : Keys
  /-- FB, the framebuffer latch (R27). -/
  fb : Framebuffer
  /-- IR, the word fetched this step (R28). -/
  ir : Word
  /-- Memory (R29). -/
  mem : Memory
  /-- MODEL: the machine's parameters (R5; log entry 4). No step writes it. -/
  config : Config
  /-- MODEL: the random byte sampled for this step (R100, R153; log entry 6). -/
  rnd : Byte
  /-- MODEL: the host's step inputs not yet sampled, oldest first (R100; log entry 5). -/
  inputs : List StepInput
  /-- MODEL: how many steps have sampled their inputs; it picks the free value a step without a
  listed input gets (log entry 5). -/
  stepCount : Nat
  /-- MODEL: the result of the last step (R100, D21; log entry 7). -/
  report : Report
  deriving DecidableEq, Repr

/-- The fatal conditions of R220, each with the info value of R221. After one the session is over
(R226), so a fault carries no state. Every one of them is SAFE: the spec says the core reports it. -/
inductive Fault where
  /-- Raised by the fetch when PC + 1 >= 4096 (R101, R222); info: PC. Safe. -/
  | invalidFetch (pc : Word)
  /-- Raised by 2NNN when SP = 16 (R123, R223); info: the instruction's address. Safe. -/
  | stackOverflow (at_ : Word)
  /-- Raised by 00EE when SP = 0 (R121, R224); info: the instruction's address. Safe. -/
  | stackUnderflow (at_ : Word)
  /-- Raised by DXYN (n > 0), FX33, FX55, FX65 when a data address passes 0xFFF (R227, D6); info: I.
  Safe. -/
  | memoryOutOfRange (i : Word)
  /-- Raised by EX9E and EXA1 when V[x] > 15 (R228, D7); info: V[x]. Safe. -/
  | keyIndexOutOfRange (v : Word)
  deriving DecidableEq, Repr

/-- The refusals of the model. -/
inductive Refusal where
  /-- Answered by exec for an instruction that has no meaning yet. Safe. No arm answers it now. -/
  | notModelled (mnemonic : String)
  deriving DecidableEq, Repr

/-- The defaults of the spec's parameters (R5): FONT of R31, wrap16, true. -/
def standardConfig : Config where
  font := defaultFont
  indexOverflow := .wrap16
  unknownTicksTimers := true

/-- The state initialize builds before any ROM byte is written (R30, R250), for a machine with the
parameters `c`. -/
def State.blank (c : Config) : State where
  v := Vector.replicate 16 0
  i := 0
  pc := 0x200
  sp := 0
  stack := Vector.replicate 16 0
  dt := 0
  st := 0
  key := Vector.replicate 16 false
  fb := Vector.replicate 32 (Vector.replicate 64 false)
  ir := 0
  mem := []
  config := c
  rnd := 0
  inputs := []
  stepCount := 0
  report := .noStep

/-- The machine right after reset with the spec's default parameters and no ROM bytes (R30). -/
def State.reset : State := State.blank standardConfig

end Sys2Proof.Machine
end

