-- ==== Sys2Proof/Machine/Ops.lean ====
section
/-! DEFINITION. The named operations over registers, the call stack, memory, the framebuffer and the
timers, and `raise`, the one operation that ends a step with a fatal condition. -/

namespace Sys2Proof.Machine

/-- What a step or an instruction answers. -/
abbrev Result := Host.Outcome State Fault Refusal

/-! General registers (R20, R21). No register is hardwired. -/

/-- `V[x]`. -/
def State.getV (s : State) (x : RegNo) : Byte := s.v[x]

/-- `V[x] <- b`. -/
def State.setV (s : State) (x : RegNo) (b : Byte) : State := { s with v := s.v.set x b }

/-- `V[k] <- bytes[k]` for every k the list reaches: registers V0 upward, in order. -/
def State.setVBlock (s : State) (bytes : List Byte) : State :=
  { s with v := Vector.ofFn fun k => bytes.getD k.val s.v[k] }

/-! Program counter, index register, timers (R22, R23, R25). -/

/-- `PC <- w`. -/
def State.setPc (s : State) (w : Word) : State := { s with pc := w }

/-- A skip, `PC <- (PC + 2) mod 2^16` where the condition holds, else PC as it is (R120, R125). -/
def State.skipIf (s : State) (c : Bool) : State := s.setPc (if c then s.pc + 2 else s.pc)

/-- During the execute phase PC is the address of the instruction plus 2 (R103), so this is the
address of the instruction that runs (R221). -/
def State.instrAddress (s : State) : Word := s.pc - 2

/-- `I <- w`. -/
def State.setI (s : State) (w : Word) : State := { s with i := w }

/-- `DT <- b`. -/
def State.setDT (s : State) (b : Byte) : State := { s with dt := b }

/-- `ST <- b`. -/
def State.setST (s : State) (b : Byte) : State := { s with st := b }

/-- `sound_on`, the output the audio collaborator observes (R100, R185). -/
def State.soundOn (s : State) : Bool := decide (s.st > 0)

/-! The call stack (R24). -/

/-- `stack[SP] <- w; SP <- SP + 1`, only if SP < 16. -/
def State.push (s : State) (w : Word) : Option State :=
  if h : s.sp.val < 16 then
    some { s with stack := s.stack.set s.sp.val w, sp := ⟨s.sp.val + 1, by omega⟩ }
  else none

/-- `SP <- SP - 1`, and the word in stack[SP] after that; only if SP > 0. The slot is not cleared. -/
def State.pop (s : State) : Option (Word × State) :=
  if h : 0 < s.sp.val then
    some (s.stack[s.sp.val - 1], { s with sp := ⟨s.sp.val - 1, by omega⟩ })
  else none

/-! Memory through the address decoder (R55). -/

/-- `MemRead(a, 1)` at an address that exists. -/
def State.readByte (s : State) (a : Nat) : Byte := Memory.read s.config.font s.mem a

/-- `MemWrite(a, 1, b)` at an address that exists. There is no protection (R56). -/
def State.writeByte (s : State) (a : Nat) (b : Byte) : State :=
  { s with mem := Memory.write s.config.font s.mem a b }

/-- The bytes at a, a+1, ..., in ascending order (R58). -/
def State.readBytes (s : State) (a len : Nat) : List Byte :=
  (List.range len).map fun k => s.readByte (a + k)

/-- Bytes written at a, a+1, ..., in ascending order (R58). -/
def State.writeBytes (s : State) (a : Nat) : List Byte → State
  | [] => s
  | b :: rest => State.writeBytes (s.writeByte a b) (a + 1) rest

/-- The check a multi-byte access makes before its first access (R55, R60): every effective address
`base + k`, k < len, a natural number that is not wrapped, exists. -/
def blockExists (base : Word) (len : Nat) : Bool :=
  decide (len = 0) || addressExists (base.toNat + (len - 1))

/-! The framebuffer (R27, R170): column c, row r. -/

/-- `FB[c, r]`. -/
def Framebuffer.pixel (fb : Framebuffer) (c : Fin 64) (r : Fin 32) : Bool := fb[r][c]

/-- `FB[c, r] <- FB[c, r] ^ 1`. -/
def Framebuffer.flip (fb : Framebuffer) (c : Fin 64) (r : Fin 32) : Framebuffer :=
  fb.set r (fb[r].set c (!fb[r][c]))

/-- Every pixel 0. -/
def Framebuffer.clear : Framebuffer := Vector.replicate 32 (Vector.replicate 64 false)

/-- `FB[c, r]` of a state. -/
def State.pixel (s : State) (c : Fin 64) (r : Fin 32) : Bool := Framebuffer.pixel s.fb c r

/-! Conditions. -/

/-- `raise F(info)` (R9, R105): the step ends at once with a fatal condition. There is no trap entry
(R232): no saved PC, no vector, no mode change; the condition goes to the host and the session is
over (R226). -/
def raise (f : Fault) : Result := .fault f

/-- The rest of a multi-byte memory instruction runs only if its whole block exists, else
MemoryOutOfRange with the base I as info (R55, R221, R227). -/
def State.withBlock (s : State) (len : Nat) (run : Result) : Result :=
  if blockExists s.i len then run else raise (.memoryOutOfRange s.i)

end Sys2Proof.Machine
end

