-- ==== Sys2Proof/Machine/Cycle.lean ====
section
/-! DEFINITION. The parts of a step around the execute phase (40_step.md R101-R108): the fetch
precondition, the inputs and the key latch, the fetch, the advance, the unknown opcode, the timer
countdown and the result. Machine/Step.lean puts them in order. -/

namespace Sys2Proof.Machine

/-- The fetch precondition fails when `PC + 1 >= 4096`, computed as naturals (R101). -/
def State.fetchInvalid (s : State) : Bool := decide (s.pc.toNat + 1 ≥ memSize)

/-- The inputs of the step that starts now (R100): the oldest the host has supplied, or free values
where it has supplied none (log entry 5). -/
def State.stepInput (s : State) : StepInput :=
  match s.inputs with
  | i :: _ => i
  | [] => { keys := Config.freeKeys s.stepCount, rnd := Config.freeRandom s.stepCount }

/-- Step 1: the snapshot overwrites the key latch (R102); the random byte is sampled with it
(R100). -/
def State.latchInputs (s : State) : State :=
  { s with
    key := s.stepInput.keys
    rnd := s.stepInput.rnd
    inputs := s.inputs.tail
    stepCount := s.stepCount + 1 }

/-- The big-endian word at PC (R102, R52). -/
def State.fetchWord (s : State) : Word :=
  joinBytes (s.readByte s.pc.toNat) (s.readByte (s.pc.toNat + 1))

/-- Steps 2 and 3: `IR <- the word at PC; PC <- (PC + 2) mod 2^16` (R102, R103). -/
def State.fetch (s : State) : State := { s with ir := s.fetchWord, pc := s.pc + 2 }

/-- Steps 1 to 3: the state in which an instruction executes. -/
def State.prepared (s : State) : State := s.latchInputs.fetch

/-- One timer's countdown (R107). -/
def tick (b : Byte) : Byte := if b > 0 then b - 1 else b

/-- Step 6: both timers count down once (R107). -/
def State.countDown (s : State) : State := { s with dt := tick s.dt, st := tick s.st }

/-- The result of a step that completed (R108). -/
def State.setReport (s : State) (r : Report) : State := { s with report := r }

/-- The end of a step whose word is unknown: reported, nothing executed, the timers counted as
UNKNOWN_TICKS_TIMERS says (R106, R225). -/
def State.unknownStep (s : State) (w : Word) : State :=
  (if s.config.unknownTicksTimers then s.countDown else s).setReport (.unknownOpcode w)

/-- The end of a step whose instruction was executed: step 6 and Ok after a completed execute phase,
neither after a fatal condition (R105, R107, R108). -/
def finishStep : Result → Result
  | .next t => .next (t.countDown.setReport .ok)
  | .fault f => .fault f
  | .refused r => .refused r

/-- The hardware's state at the detection of a fatal condition (R226): as before the step for
InvalidFetch, else after steps 1 to 3. The spec gives it so that the hardware is deterministic and
says no claim may rely on it (D9); no statement of this package names it. -/
def State.atDetection (s : State) : State := if s.fetchInvalid then s else s.prepared

/-- Lay a word out at an address as the hardware stores it (R52), where both its bytes exist. -/
def State.storeWord (s : State) (a : Nat) (w : Word) : State :=
  if addressExists (a + 1) then s.writeBytes a [hiByte w, loByte w] else s

end Sys2Proof.Machine
end

