-- ==== Sys2Proof/Machine/Operands.lean ====
section
/-! DEFINITION. Operand forms (30_encoding.md R78, 45_index_memory.md R200): immediates extended
without sign, the address of a glyph, the decimal digits, the register block, the key number, the
sprite's start and its bits. -/

namespace Sys2Proof.Machine

/-- A 12-bit address as a 16-bit word, value unchanged (R78). -/
def zextAddr (nnn : Addr12) : Word := nnn.setWidth 16

/-- A byte as a 16-bit word, value unchanged. -/
def zextByte (b : Byte) : Word := b.setWidth 16

/-- BNNN's target `nnn + V0`; at most 0x10FE, so it does not wrap (R124). -/
def State.offsetTarget (s : State) (nnn : Addr12) : Word := zextAddr nnn + zextByte (s.getV 0)

/-- FX29's `0x050 + b * 5`; at most 0x54B, so it does not wrap (R203). -/
def glyphAddress (b : Byte) : Word := BitVec.ofNat 16 (fontBase + b.toNat * 5)

/-- FX1E's new I under the machine's INDEX_OVERFLOW policy (R202, D16). -/
def State.indexSum (s : State) (b : Byte) : Word :=
  match s.config.indexOverflow with
  | .wrap16 => s.i + zextByte b

/-- The decimal digits of a byte: hundreds, tens, ones (R204). -/
def bcdDigits (b : Byte) : List Byte :=
  [BitVec.ofNat 8 (b.toNat / 100), BitVec.ofNat 8 (b.toNat / 10 % 10), BitVec.ofNat 8 (b.toNat % 10)]

/-- The values of V0..V[x] in order, x + 1 bytes (R205). -/
def State.regBlock (s : State) (x : RegNo) : List Byte := s.v.toList.take (x.val + 1)

/-- The key a register value names: none above 15 (R186, R187, D7). -/
def keyNumber (b : Byte) : Option (Fin 16) :=
  if h : b.toNat < 16 then some ⟨b.toNat, h⟩ else none

/-- The lowest-numbered key that is pressed, by an ascending scan (R189). -/
def firstPressed (keys : Keys) : Option (Fin 16) := (List.finRange 16).find? fun k => keys[k]

/-- DXYN's start column, `V[x] mod 64` (R172). -/
def State.spriteColumn (s : State) (x : RegNo) : Nat := (s.getV x).toNat % 64

/-- DXYN's start row, `V[y] mod 32` (R172). -/
def State.spriteRow (s : State) (y : RegNo) : Nat := (s.getV y).toNat % 32

/-- A sprite byte's bit for a column: column 0 is bit 7, the most significant (R7, R170). -/
def spriteBit (b : Byte) (col : Nat) : Bool := b.getLsbD (7 - col)

end Sys2Proof.Machine
end

