-- ==== Sys2Proof/Machine/Alu.lean ====
section
/-! DEFINITION. Register and ALU instructions (42_alu.md). Statements run in the order written, each
reading the registers as the earlier ones left them (R10, D5; log entry 10): the flag is written
first, and the result is computed from the registers after that, but for 8XY4, whose sum is bound
before. Byte arithmetic is mod 256 (R141). -/

namespace Sys2Proof.Machine

/-- 6XNN, load immediate (R142). -/
def exec6XNN (x : RegNo) (nn : Byte) (s : State) : Result := .next (s.setV x nn)

/-- 7XNN, add immediate, no flag (R143). -/
def exec7XNN (x : RegNo) (nn : Byte) (s : State) : Result := .next (s.setV x (s.getV x + nn))

/-- 8XY0, move (R144). -/
def exec8XY0 (x y : RegNo) (s : State) : Result := .next (s.setV x (s.getV y))

/-- 8XY1, OR; VF is not written (R145). -/
def exec8XY1 (x y : RegNo) (s : State) : Result := .next (s.setV x (s.getV x ||| s.getV y))

/-- 8XY2, AND; VF is not written (R146). -/
def exec8XY2 (x y : RegNo) (s : State) : Result := .next (s.setV x (s.getV x &&& s.getV y))

/-- 8XY3, XOR; VF is not written (R147). -/
def exec8XY3 (x y : RegNo) (s : State) : Result := .next (s.setV x (s.getV x ^^^ s.getV y))

/-- 8XY4, add with carry: the sum is bound before VF is written (R148). -/
def exec8XY4 (x y : RegNo) (s : State) : Result :=
  let sum := s.getV x + s.getV y
  .next ((s.setV regF (carryFlag (s.getV x) (s.getV y))).setV x sum)

/-- 8XY5, subtract V[y] from V[x] after VF is written (R149). -/
def exec8XY5 (x y : RegNo) (s : State) : Result :=
  let t := s.setV regF (greaterFlag (s.getV x) (s.getV y))
  .next (t.setV x (t.getV x - t.getV y))

/-- 8XY6, shift V[x] right by one after VF is written; y is ignored (R150). -/
def exec8XY6 (x _y : RegNo) (s : State) : Result :=
  let t := s.setV regF (lowBitFlag (s.getV x))
  .next (t.setV x (t.getV x >>> 1))

/-- 8XY7, subtract V[x] from V[y] after VF is written (R151). -/
def exec8XY7 (x y : RegNo) (s : State) : Result :=
  let t := s.setV regF (greaterFlag (s.getV y) (s.getV x))
  .next (t.setV x (t.getV y - t.getV x))

/-- 8XYE, shift V[x] left by one after VF is written; y is ignored (R152). -/
def exec8XYE (x _y : RegNo) (s : State) : Result :=
  let t := s.setV regF (highBitFlag (s.getV x))
  .next (t.setV x (t.getV x <<< 1))

/-- CXNN, the step's random byte AND the immediate (R153). -/
def execCXNN (x : RegNo) (nn : Byte) (s : State) : Result := .next (s.setV x (nn &&& s.rnd))

end Sys2Proof.Machine
end

