-- ==== Sys2Proof/Machine/ControlFlow.lean ====
section
/-! DEFINITION. Control transfer and skips (41_control_flow.md). PC is the address of the instruction
plus 2 when a meaning runs (R120). -/

namespace Sys2Proof.Machine

/-- 00EE, return from subroutine (R121). -/
def exec00EE (s : State) : Result :=
  match s.pop with
  | some (w, t) => .next (t.setPc w)
  | none => raise (.stackUnderflow s.instrAddress)

/-- 1NNN, jump (R122). -/
def exec1NNN (nnn : Addr12) (s : State) : Result := .next (s.setPc (zextAddr nnn))

/-- 2NNN, call subroutine: the pushed PC is the address after the call (R123). -/
def exec2NNN (nnn : Addr12) (s : State) : Result :=
  match s.push s.pc with
  | some t => .next (t.setPc (zextAddr nnn))
  | none => raise (.stackOverflow s.instrAddress)

/-- BNNN, jump with offset V0 (R124). -/
def execBNNN (nnn : Addr12) (s : State) : Result := .next (s.setPc (s.offsetTarget nnn))

/-- 3XNN, skip if V[x] equals the immediate (R125). -/
def exec3XNN (x : RegNo) (nn : Byte) (s : State) : Result := .next (s.skipIf (s.getV x == nn))

/-- 4XNN, skip if V[x] differs from the immediate (R126). -/
def exec4XNN (x : RegNo) (nn : Byte) (s : State) : Result := .next (s.skipIf (s.getV x != nn))

/-- 5XY0, skip if registers are equal (R127). -/
def exec5XY0 (x y : RegNo) (s : State) : Result := .next (s.skipIf (s.getV x == s.getV y))

/-- 9XY0, skip if registers differ (R128). -/
def exec9XY0 (x y : RegNo) (s : State) : Result := .next (s.skipIf (s.getV x != s.getV y))

end Sys2Proof.Machine
end

