-- ==== Sys2Proof/Machine/Display.lean ====
section
/-! DEFINITION. Display instructions (43_display.md). -/

namespace Sys2Proof.Machine

/-- A framebuffer being drawn on, and whether a set sprite bit has landed on a pixel that was on. -/
abbrev Drawing := Framebuffer × Bool

/-- One bit of the sprite at (column c, row r), the pixel's coordinates reduced mod 64 and mod 32:
a set bit records a collision and toggles the pixel, a zero bit does nothing (R172). -/
def plotBit (c r : Nat) (bit : Bool) (d : Drawing) : Drawing :=
  if bit then
    let c := Fin.ofNat 64 c
    let r := Fin.ofNat 32 r
    (Framebuffer.flip d.1 c r, d.2 || Framebuffer.pixel d.1 c r)
  else d

/-- The eight columns of one sprite byte, most significant bit first (R172). -/
def plotByte (sx r : Nat) (b : Byte) (d : Drawing) : Drawing :=
  (List.range 8).foldl (fun d col => plotBit (sx + col) r (spriteBit b col) d) d

/-- The rows of a sprite in ascending order, row `row` at screen row `sy + row` (R172). -/
def plotRows (sx : Nat) (sy : Nat) (rows : List Byte) (d : Drawing) : Drawing :=
  match rows with
  | [] => d
  | b :: rest => plotRows sx (sy + 1) rest (plotByte sx sy b d)

/-- 00E0, clear the framebuffer; VF is not written (R171). -/
def exec00E0 (s : State) : Result := .next { s with fb := Framebuffer.clear }

/-- DXYN, draw a sprite with XOR and collision flag (R172). The start is bound before VF is written,
and the range of the sprite's bytes is checked before anything is. -/
def execDXYN (x y : RegNo) (n : Fin 16) (s : State) : Result :=
  s.withBlock n.val
    (let d := plotRows (s.spriteColumn x) (s.spriteRow y) (s.readBytes s.i.toNat n.val) (s.fb, false)
     .next ({ s with fb := d.1 }.setV regF (collisionFlag d.2)))

end Sys2Proof.Machine
end

