-- ==== Sys2Proof/Machine/IndexMemory.lean ====
section
/-! DEFINITION. Index register and memory instructions (45_index_memory.md). No instruction changes I
as a side effect of an access (R200). -/

namespace Sys2Proof.Machine

/-- ANNN, set the index register (R201). -/
def execANNN (nnn : Addr12) (s : State) : Result := .next (s.setI (zextAddr nnn))

/-- FX1E, add V[x] to I; VF is not written (R202). -/
def execFX1E (x : RegNo) (s : State) : Result := .next (s.setI (s.indexSum (s.getV x)))

/-- FX29, point I at a font glyph; V[x] is not reduced (R203). -/
def execFX29 (x : RegNo) (s : State) : Result := .next (s.setI (glyphAddress (s.getV x)))

/-- FX33, store the decimal digits of V[x] at I, I+1, I+2 (R204). -/
def execFX33 (x : RegNo) (s : State) : Result :=
  s.withBlock 3 (.next (s.writeBytes s.i.toNat (bcdDigits (s.getV x))))

/-- FX55, store V0..V[x] at I upward (R205). -/
def execFX55 (x : RegNo) (s : State) : Result :=
  s.withBlock (x.val + 1) (.next (s.writeBytes s.i.toNat (s.regBlock x)))

/-- FX65, load V0..V[x] from I upward (R206). -/
def execFX65 (x : RegNo) (s : State) : Result :=
  s.withBlock (x.val + 1) (.next (s.setVBlock (s.readBytes s.i.toNat (x.val + 1))))

end Sys2Proof.Machine
end

