-- ==== Sys2Proof/Machine/KeysTimers.lean ====
section
/-! DEFINITION. Key and timer instructions (44_keys_timers.md). KEY already holds this step's snapshot
(R102), and the timer countdown follows the execute phase (R107). -/

namespace Sys2Proof.Machine

/-- EX9E, skip if key V[x] is pressed (R186). -/
def execEX9E (x : RegNo) (s : State) : Result :=
  match keyNumber (s.getV x) with
  | some k => .next (s.skipIf s.key[k])
  | none => raise (.keyIndexOutOfRange (zextByte (s.getV x)))

/-- EXA1, skip if key V[x] is not pressed (R187). -/
def execEXA1 (x : RegNo) (s : State) : Result :=
  match keyNumber (s.getV x) with
  | some k => .next (s.skipIf (!s.key[k]))
  | none => raise (.keyIndexOutOfRange (zextByte (s.getV x)))

/-- FX07, read the delay timer (R188). -/
def execFX07 (x : RegNo) (s : State) : Result := .next (s.setV x s.dt)

/-- What FX0A leaves: V[x] is the lowest pressed key, or PC is back at the instruction (R189). -/
def State.keyWait (s : State) (x : RegNo) : Option (Fin 16) → State
  | some k => s.setV x (BitVec.ofNat 8 k.val)
  | none => s.setPc (s.pc - 2)

/-- FX0A, wait for a key by retrying itself (R189). -/
def execFX0A (x : RegNo) (s : State) : Result := .next (s.keyWait x (firstPressed s.key))

/-- FX15, set the delay timer (R190). -/
def execFX15 (x : RegNo) (s : State) : Result := .next (s.setDT (s.getV x))

/-- FX18, set the sound timer (R191). -/
def execFX18 (x : RegNo) (s : State) : Result := .next (s.setST (s.getV x))

end Sys2Proof.Machine
end

