-- ==== Sys2Proof/Machine/Step.lean ====
section
/-! DEFINITION. The step transaction (40_step.md R109), and the placing of one instruction where the
next step fetches it. -/

namespace Sys2Proof.Machine

/-- One step (R109): fetch precondition, key latch, fetch, advance, decode, execute, timers, result.
UnknownOpcode is not fatal: the step completes and reports it (R106, R225). -/
def step (s : State) : Host.Outcome State Fault Refusal :=
  if s.fetchInvalid then raise (.invalidFetch s.pc)
  else
    match decode s.prepared.ir with
    | .instr i => finishStep (exec i s.prepared)
    | .unknown w => .next (s.prepared.unknownStep w)

/-- `s` with the instruction of a table row's bits `w` stored at PC, where the next step fetches it
(log entry 9). Nothing else changes. -/
def State.withFetchWord (s : State) (nbits w : Nat) : State :=
  s.storeWord s.pc.toNat (tableWord nbits w)

end Sys2Proof.Machine
end

