-- ==== Sys2Proof/Machine/Initialize.lean ====
section
/-! DEFINITION. Reset: the initialize transaction (70_reset_and_hazards.md R250-R253). -/

namespace Sys2Proof.Machine

/-- Why initialize refuses (R220, R229). Not a condition of a step. -/
inductive InitError where
  /-- The ROM is longer than 3584 bytes (R251); no state is produced. Safe. -/
  | romTooLarge
  deriving DecidableEq, Repr

/-- `initialize(rom)` on a machine with parameters `c`: a whole new state, or RomTooLarge and no
state (R250, R251). Nothing of an earlier state survives (R253). -/
def initCore (c : Config) (rom : List Byte) : Except InitError State :=
  if romWellFormed rom then .ok ((State.blank c).writeBytes romBase rom) else .error .romTooLarge

end Sys2Proof.Machine
end

