-- ==== Sys2Proof/Machine/Results.lean ====
section
/-! DEFINITION. The step's outputs `result` (3 bits) and `info` (16 bits), by the table of
60_exceptions.md R221 (the codes and all info values but UnknownOpcode's are the spec's own choice,
D11; log entry 16). -/

namespace Sys2Proof.Machine

/-- The two outputs of a step, valid until the next one (R100). -/
structure StepOutput where
  result : BitVec 3
  info : Word
  deriving DecidableEq, Repr

/-- The outputs of a step that ended in a fatal condition (R221). -/
def faultOutput : Fault → StepOutput
  | .invalidFetch pc => ⟨2, pc⟩
  | .stackOverflow a => ⟨3, a⟩
  | .stackUnderflow a => ⟨4, a⟩
  | .memoryOutOfRange i => ⟨5, i⟩
  | .keyIndexOutOfRange v => ⟨6, v⟩

/-- The outputs of a step that completed; none before the first step (R221). -/
def reportOutput : Report → Option StepOutput
  | .noStep => none
  | .ok => some ⟨0, 0⟩
  | .unknownOpcode w => some ⟨1, w⟩

/-- The outputs of a step, read from what the model's step answered. -/
def stepOutput : Result → Option StepOutput
  | .next t => reportOutput t.report
  | .fault f => some (faultOutput f)
  | .refused _ => none

end Sys2Proof.Machine
end

