-- ==== Sys2Proof/Safety.lean ====
section
/-! DEFINITION. What counts as a safe run, and the invariants claims use. -/

namespace Sys2Proof.Machine

/-- One step that completes, with Ok or with UnknownOpcode. -/
def StepsTo (s t : State) : Prop := step s = .next t

/-- One step that completes with Ok (R108). -/
def StepsOk (s t : State) : Prop := step s = .next t ∧ t.report = .ok

/-- `t` is reached from `s` by steps that complete. -/
inductive Reaches (s : State) : State → Prop where
  | refl : Reaches s s
  | step {t u : State} (h : Reaches s t) (hstep : StepsTo t u) : Reaches s u

/-- A safe run of k steps from `s`: no fatal condition and no UnknownOpcode on the way (D9, D21). -/
def SafeRun (s : State) : Nat → Prop
  | 0 => True
  | k + 1 => ∃ t, StepsOk s t ∧ SafeRun t k

/-- Memory has its canonical form. -/
def State.MemoryCanonical (s : State) : Prop := Memory.wf s.config.font s.mem

/-- The reachable bounds of 10_state.md R35: every stack slot in use holds at most 0x1000, and PC is
at most 0x10FE (SP <= 16 holds by SP's type). -/
def State.Bounded (s : State) : Prop :=
  s.pc.toNat ≤ 0x10FE ∧ ∀ k : Fin 16, k.val < s.sp.val → s.stack[k].toNat ≤ 0x1000

end Sys2Proof.Machine
end

