-- ==== Sys2Proof/Certificates/Slice0/Obligations.lean ====
section
/-! DEFINITION. The statements for the provers. Each instruction's statement begins with its encoding
from spec/opcode_table.json, written nibble by nibble, and says what the instruction leaves unchanged.
Arithmetic is written over natural numbers, as the spec writes it (R8). -/

open Sys2Proof Sys2Proof.Machine

namespace Sys2Proof.Claims

/-! What an instruction leaves unchanged: `s` is the state before, `t` the state after. -/

/-- Every general register but those listed. -/
def KeepsRegsBut (ds : List RegNo) (s t : State) : Prop := ∀ k, k ∉ ds → t.getV k = s.getV k

/-- Every general register. -/
def KeepsRegs (s t : State) : Prop := ∀ k, t.getV k = s.getV k

def KeepsPc (s t : State) : Prop := t.pc = s.pc

def KeepsIndex (s t : State) : Prop := t.i = s.i

/-- SP and all sixteen slots of the call stack. -/
def KeepsStack (s t : State) : Prop := t.sp = s.sp ∧ ∀ k : Fin 16, t.stack[k] = s.stack[k]

def KeepsTimers (s t : State) : Prop := t.dt = s.dt ∧ t.st = s.st

/-- The key latch and the instruction register. -/
def KeepsLatches (s t : State) : Prop := (∀ k : Fin 16, t.key[k] = s.key[k]) ∧ t.ir = s.ir

/-- Every pixel. -/
def KeepsScreen (s t : State) : Prop := ∀ c r, t.pixel c r = s.pixel c r

/-- Every byte of memory. -/
def KeepsMemory (s t : State) : Prop := ∀ a, t.readByte a = s.readByte a

/-- Every byte of memory outside the `len` bytes from `base`. -/
def KeepsMemoryOutside (base len : Nat) (s t : State) : Prop :=
  ∀ a, ¬(base ≤ a ∧ a < base + len) → t.readByte a = s.readByte a

/-- The model's own fields. -/
def KeepsHost (s t : State) : Prop :=
  t.config = s.config ∧ t.rnd = s.rnd ∧ t.inputs = s.inputs ∧ t.stepCount = s.stepCount ∧
    t.report = s.report

/-- Everything but the general registers and PC. -/
def KeepsRest (s t : State) : Prop :=
  KeepsIndex s t ∧ KeepsStack s t ∧ KeepsTimers s t ∧ KeepsLatches s t ∧ KeepsScreen s t ∧
    KeepsMemory s t ∧ KeepsHost s t

/-- An instruction of the register shape: it writes the registers listed and nothing else. -/
def WritesOnlyRegs (ds : List RegNo) (s t : State) : Prop :=
  KeepsRegsBut ds s t ∧ KeepsPc s t ∧ KeepsRest s t

/-- An instruction of the jump shape: it writes PC and nothing else. -/
def WritesOnlyPc (s t : State) : Prop := KeepsRegs s t ∧ KeepsRest s t

/-- An instruction of the index shape: it writes I and nothing else. -/
def WritesOnlyIndex (s t : State) : Prop :=
  KeepsRegs s t ∧ KeepsPc s t ∧ KeepsStack s t ∧ KeepsTimers s t ∧ KeepsLatches s t ∧
    KeepsScreen s t ∧ KeepsMemory s t ∧ KeepsHost s t

/-- An instruction of the storing shape: it stores `len` bytes at `base` and changes nothing else. -/
def WritesOnlyBytes (base len : Nat) (s t : State) : Prop :=
  KeepsRegs s t ∧ KeepsPc s t ∧ KeepsIndex s t ∧ KeepsStack s t ∧ KeepsTimers s t ∧
    KeepsLatches s t ∧ KeepsScreen s t ∧ KeepsMemoryOutside base len s t ∧ KeepsHost s t

/-! Notation for instruction words, steps and flags. -/

/-- A register number as the 4-bit field of a word. -/
abbrev reg (x : RegNo) : BitVec 4 := BitVec.ofFin (w := 4) x

/-- The word of four nibbles, most significant first (R6). -/
abbrev nibbles (a b c d : BitVec 4) : Word := a ++ (b ++ (c ++ d))

/-- The word of a class nibble and a 12-bit address. -/
abbrev classNNN (a : BitVec 4) (nnn : Addr12) : Word := a ++ nnn

/-- The word of a class nibble, a register and a byte. -/
abbrev classXNN (a : BitVec 4) (x : RegNo) (nn : Byte) : Word := a ++ (reg x ++ nn)

/-- The two bytes at PC exist and make the big-endian word of instruction `i`. -/
def FetchesInstr (s : State) (i : Instr) : Prop :=
  s.pc.toNat + 1 < 4096 ∧
    decode (joinBytes (s.readByte s.pc.toNat) (s.readByte (s.pc.toNat + 1))) = .instr i

/-- A flag as VF holds it. -/
def flagIs (b : Byte) (p : Prop) : Prop := (p → b.toNat = 1) ∧ (¬p → b.toNat = 0)

/-- The same function of the state applied to whatever state a result holds. -/
def mapNext (f : State → State) : Result → Result
  | .next t => .next (f t)
  | .fault e => .fault e
  | .refused r => .refused r

end Sys2Proof.Claims

open Sys2Proof.Claims

/-! ## Encoding -/

/-- 30_encoding.md: encoding an instruction and decoding the word, or the two bytes in memory order
with anything after them, gives the instruction back, for every operand value. -/
def Obligations.EncodedInstructionDecodesToItself : Prop :=
  ∀ i : Instr, decode (encode i) = .instr i ∧
    ∀ rest, decodeBytes (encodeBytes i ++ rest) = .ok (i, rest)

/-- Every defined word is the encoding of the one instruction it decodes to: no bit is ignored. That
every fixed digit must match, low nibbles of classes 5 and 9 included, is the spec's own decision D4
(log entry 12). -/
def Obligations.DecodedWordEncodesBack : Prop :=
  ∀ (w : Word) (i : Instr), decode w = .instr i → encode i = w

/-- R83, R84 (which the spec marks as decision D4 and as derived): a word is unknown exactly when it
matches none of the 34 rows, and no word matches two different rows. -/
def Obligations.TableRowsDivideTheWords : Prop :=
  opcodeTable.length = 34 ∧
  (∀ w : Word, decode w = .unknown w ↔ ∀ r ∈ opcodeTable, r.accepts w = false) ∧
  (∀ (w : Word) (r q : OpcodeRow), r ∈ opcodeTable → q ∈ opcodeTable →
    r.accepts w = true → q.accepts w = true → r = q)

/-- R76: the six fields, each by the expression the source gives, and how they overlap. -/
def Obligations.FieldsAreTheSlicesOfTheWord : Prop :=
  ∀ w : Word,
    (fieldsOf w).opClass.toNat = w.toNat >>> 12 ∧
    (fieldsOf w).x.toNat = (w.toNat >>> 8) &&& 0xF ∧
    (fieldsOf w).y.toNat = (w.toNat >>> 4) &&& 0xF ∧
    (fieldsOf w).n.toNat = w.toNat &&& 0xF ∧
    (fieldsOf w).nn.toNat = w.toNat &&& 0xFF ∧
    (fieldsOf w).nnn.toNat = w.toNat &&& 0xFFF ∧
    (fieldsOf w).nn.toNat = (fieldsOf w).y.toNat * 16 + (fieldsOf w).n.toNat ∧
    (fieldsOf w).nnn.toNat =
      (fieldsOf w).x.toNat * 256 + (fieldsOf w).y.toNat * 16 + (fieldsOf w).n.toNat

/-- Twelve words, written out from the encodings of 30_encoding.md and the words of
95_test_vectors.md. That 5121 (5XY1) and 0123 (0NNN) are unknown is the spec's own decision D4 (log
entry 12). -/
def Obligations.SampleWordsDecodeAsTheTableSays : Prop :=
  decode 0x00E0 = .instr .op00E0 ∧ decode 0x2300 = .instr (.op2NNN 0x300) ∧
  decode 0x3342 = .instr (.op3XNN 3 0x42) ∧ decode 0x8F15 = .instr (.op8XY5 15 1) ∧
  decode 0xD012 = .instr (.opDXYN 0 1 2) ∧ decode 0xE4A1 = .instr (.opEXA1 4) ∧
  decode 0xF20A = .instr (.opFX0A 2) ∧ decode 0xF165 = .instr (.opFX65 1) ∧
  decode 0x5121 = .unknown 0x5121 ∧ decode 0x0123 = .unknown 0x0123 ∧
  decode 0x812F = .unknown 0x812F ∧ decode 0xF100 = .unknown 0xF100

/-! ## Reset -/

/-- R30: what initialize leaves, for every value of the parameters and every ROM it accepts. -/
def Obligations.InitializeLeavesTheResetTable : Prop :=
  ∀ (c : Config) (rom : List Byte), rom.length ≤ 3584 →
    ∃ s, initCore c rom = .ok s ∧
      (∀ k, s.getV k = 0) ∧ s.i = 0 ∧ s.pc = 0x200 ∧ s.sp = 0 ∧
      (∀ k : Fin 16, s.stack[k] = 0) ∧ s.dt = 0 ∧ s.st = 0 ∧
      (∀ k : Fin 16, s.key[k] = false) ∧ (∀ c r, s.pixel c r = false) ∧ s.ir = 0 ∧
      (∀ a, a < 0x050 → s.readByte a = 0) ∧
      (∀ k : Fin 80, s.readByte (0x050 + k) = c.font[k]) ∧
      (∀ a, 0x0A0 ≤ a → a < 0x200 → s.readByte a = 0) ∧
      (∀ k : Fin rom.length, s.readByte (0x200 + k) = rom[k]) ∧
      (∀ a, 0x200 + rom.length ≤ a → a ≤ 0xFFF → s.readByte a = 0)

/-- R229: initialize answers RomTooLarge exactly for a ROM longer than 3584 bytes. -/
def Obligations.RomTooLargeExactlyAbove3584Bytes : Prop :=
  ∀ (c : Config) (rom : List Byte),
    (initCore c rom = .error .romTooLarge ↔ 3584 < rom.length) ∧
    (rom.length ≤ 3584 ↔ ∃ s, initCore c rom = .ok s)

/-- The model's reset state is initialize of a 0-byte ROM with the default parameters. Its parameters
(log entries 1 to 3) and its own fields (log entries 5 to 7) are the model's choice. -/
def Obligations.ResetIsInitializeWithoutARom : Prop :=
  initCore standardConfig [] = .ok State.reset ∧ State.reset.config.unknownTicksTimers = true ∧
    State.reset.report = .noStep ∧ State.reset.inputs = []

/-! ## The step -/

/-- R109: when the two bytes at PC decode to an instruction, the step is that instruction's execute
phase on the prepared state, then both timers counted down once and the result Ok; a fatal condition
of the instruction is the step's result. -/
def Obligations.StepRunsTheDecodedInstruction : Prop :=
  ∀ (s : State) (i : Instr), FetchesInstr s i →
    (∀ t, exec i s.prepared = .next t → ∃ u, step s = .next u ∧
      u = { t with dt := u.dt, st := u.st, report := .ok } ∧
      u.dt.toNat = t.dt.toNat - 1 ∧ u.st.toNat = t.st.toNat - 1) ∧
    (∀ f, exec i s.prepared = .fault f → step s = .fault f)

/-- R102, and the advance of 40_step.md: the state the instruction executes in has the step's key
snapshot in KEY (it overwrites, whatever was latched), the big-endian word at PC in IR, and PC + 2. That
the step's inputs are the oldest the host has listed, or free values where it has listed none, is the
model's choice (log entry 5), and so are its own fields rnd, inputs and stepCount. -/
def Obligations.PreparedStateHasKeysWordAndAdvancedPc : Prop :=
  ∀ s : State, s.pc.toNat + 1 < 4096 →
    (∀ k : Fin 16, s.prepared.key[k] = s.stepInput.keys[k]) ∧
    s.prepared.ir.toNat =
      (s.readByte s.pc.toNat).toNat <<< 8 ||| (s.readByte (s.pc.toNat + 1)).toNat ∧
    s.prepared.pc.toNat = s.pc.toNat + 2 ∧
    KeepsRegs s s.prepared ∧ KeepsIndex s s.prepared ∧ KeepsStack s s.prepared ∧
    KeepsTimers s s.prepared ∧ KeepsScreen s s.prepared ∧ KeepsMemory s s.prepared ∧
    s.prepared.rnd = s.stepInput.rnd ∧ s.prepared.stepCount = s.stepCount + 1 ∧
    s.prepared.config = s.config ∧ s.prepared.report = s.report ∧
    (∀ input rest, s.inputs = input :: rest → s.stepInput = input ∧ s.prepared.inputs = rest) ∧
    (s.inputs = [] → s.stepInput.keys = Config.freeKeys s.stepCount ∧
      s.stepInput.rnd = Config.freeRandom s.stepCount ∧ s.prepared.inputs = [])

/-- 40_step.md section 1, the fetch precondition (ordering by D10, info by D11: the spec's own
decisions): InvalidFetch with PC as info, exactly when PC + 1 >= 4096. -/
def Obligations.FetchFailsExactlyAtTheEndOfMemory : Prop :=
  ∀ s : State, (4096 ≤ s.pc.toNat + 1 → step s = .fault (.invalidFetch s.pc)) ∧
    ∀ p, step s = .fault (.invalidFetch p) → 4096 ≤ s.pc.toNat + 1 ∧ p = s.pc

/-- 40_step.md section 1 (D4, D8: the spec's own decisions): an unknown word is reported with its
word, changes no Machine State but PC, KEY, IR and the timers, and the timers as the parameter
UNKNOWN_TICKS_TIMERS says; the machine goes on. Of the model's own fields (log entries 4 to 7) the
step's inputs are taken, the steps counted and the report written, as in every step. -/
def Obligations.UnknownWordIsReportedAndPassed : Prop :=
  ∀ (s : State) (w : Word), s.pc.toNat + 1 < 4096 →
    w = joinBytes (s.readByte s.pc.toNat) (s.readByte (s.pc.toNat + 1)) →
    (∀ r ∈ opcodeTable, r.accepts w = false) →
      ∃ t, step s = .next t ∧ t.report = .unknownOpcode w ∧ t.ir = w ∧
        t.pc.toNat = s.pc.toNat + 2 ∧ t.key = s.stepInput.keys ∧
        (s.config.unknownTicksTimers = true →
          t.dt.toNat = s.dt.toNat - 1 ∧ t.st.toNat = s.st.toNat - 1) ∧
        (s.config.unknownTicksTimers = false → KeepsTimers s t) ∧
        KeepsRegs s t ∧ KeepsIndex s t ∧ KeepsStack s t ∧ KeepsScreen s t ∧ KeepsMemory s t ∧
        t.rnd = s.stepInput.rnd ∧ t.inputs = s.inputs.tail ∧ t.stepCount = s.stepCount + 1 ∧
        t.config = s.config

/-- 40_step.md section 1, step 6: in every step that returns Ok each timer counts down by one and
never below 0, whatever instruction ran, unless that instruction wrote the timer. -/
def Obligations.TimersCountOncePerStep : Prop :=
  ∀ (s t : State), step s = .next t → t.report = .ok →
    ((∀ x, ¬FetchesInstr s (.opFX15 x)) → t.dt.toNat = s.dt.toNat - 1) ∧
    ((∀ x, ¬FetchesInstr s (.opFX18 x)) → t.st.toNat = s.st.toNat - 1)

/-- 44_keys_timers.md and 70_reset_and_hazards.md section 2: FX15 and FX18 write a timer in the
execute phase, and the step's own countdown follows at once, so after the step the timer is one less
than V[x] (0 for V[x] = 0); `sound_on` is then true exactly for V[x] >= 2. -/
def Obligations.TimerWriteIsCountedInItsOwnStep : Prop :=
  ∀ (s : State) (x : RegNo),
    decode (classXNN 0xF x 0x15) = .instr (.opFX15 x) ∧
    decode (classXNN 0xF x 0x18) = .instr (.opFX18 x) ∧
    (∃ t, exec (.opFX15 x) s = .next t ∧ t.dt = s.getV x ∧ t.st = s.st ∧
      KeepsRegs s t ∧ KeepsPc s t ∧ KeepsIndex s t ∧ KeepsStack s t ∧ KeepsLatches s t ∧
      KeepsScreen s t ∧ KeepsMemory s t ∧ KeepsHost s t) ∧
    (∃ t, exec (.opFX18 x) s = .next t ∧ t.st = s.getV x ∧ t.dt = s.dt ∧
      KeepsRegs s t ∧ KeepsPc s t ∧ KeepsIndex s t ∧ KeepsStack s t ∧ KeepsLatches s t ∧
      KeepsScreen s t ∧ KeepsMemory s t ∧ KeepsHost s t) ∧
    (FetchesInstr s (.opFX15 x) → ∃ u, step s = .next u ∧ u.report = .ok ∧
      u.dt.toNat = (s.getV x).toNat - 1 ∧ u.st.toNat = s.st.toNat - 1) ∧
    (FetchesInstr s (.opFX18 x) → ∃ u, step s = .next u ∧ u.report = .ok ∧
      u.st.toNat = (s.getV x).toNat - 1 ∧ u.dt.toNat = s.dt.toNat - 1 ∧
      (u.soundOn = true ↔ 2 ≤ (s.getV x).toNat))

/-- The instruction placed where the step fetches is the one the next step runs: this stands for the
loading of a program (log entry 9, the model's choice), with the word in the byte order of R52. -/
def Obligations.PlacedInstructionIsTheOneThatRuns : Prop :=
  ∀ (s : State) (i : Instr), s.MemoryCanonical → s.pc.toNat + 1 < 4096 →
    FetchesInstr (s.withFetchWord 16 (encode i).toNat) i ∧
    (s.withFetchWord 16 (encode i).toNat).readByte s.pc.toNat = hiByte (encode i) ∧
    (s.withFetchWord 16 (encode i).toNat).readByte (s.pc.toNat + 1) = loByte (encode i) ∧
    WritesOnlyBytes s.pc.toNat 2 s (s.withFetchWord 16 (encode i).toNat)

/-! ## Whole-machine rules -/

/-- 10_state.md section 4: only 2NNN pushes and only 00EE pops. -/
def Obligations.OnlyCallAndReturnTouchTheStack : Prop :=
  ∀ (i : Instr) (s t : State), exec i s = .next t →
    i ≠ .op00EE → (∀ nnn, i ≠ .op2NNN nnn) → KeepsStack s t

/-- 10_state.md section 7 ("only opcode 00E0 (clear) and opcode DXYN (draw, via XOR) mutate it") and
20_memory.md section 2 (only FX33 and FX55 write memory). -/
def Obligations.ScreenAndMemoryHaveTwoWritersEach : Prop :=
  ∀ (i : Instr) (s t : State), exec i s = .next t →
    (i ≠ .op00E0 → (∀ x y n, i ≠ .opDXYN x y n) → KeepsScreen s t) ∧
    ((∀ x, i ≠ .opFX33 x) → (∀ x, i ≠ .opFX55 x) → KeepsMemory s t)

/-- 10_state.md sections 3 and 5: the writers of I are ANNN, FX1E and FX29; in the execute phase only
FX15 writes DT and only FX18 writes ST. -/
def Obligations.IndexAndTimersHaveTheListedWriters : Prop :=
  ∀ (i : Instr) (s t : State), exec i s = .next t →
    ((∀ nnn, i ≠ .opANNN nnn) → (∀ x, i ≠ .opFX1E x) → (∀ x, i ≠ .opFX29 x) → KeepsIndex s t) ∧
    ((∀ x, i ≠ .opFX15 x) → t.dt = s.dt) ∧ ((∀ x, i ≠ .opFX18 x) → t.st = s.st)

/-- 10_state.md sections 6 and 8: no instruction writes KEY or IR; nor does one write the model's own
fields (log entries 4 to 7). -/
def Obligations.NoInstructionWritesKeysOrInstructionRegister : Prop :=
  ∀ (i : Instr) (s t : State), exec i s = .next t → KeepsLatches s t ∧ KeepsHost s t

/-- The general registers an instruction may write, by the writers' list of 10_state.md section 1:
its destination, VF for those that write a flag, and V0..V[x] for FX65. -/
def Sys2Proof.Claims.mayWrite : Instr → List RegNo
  | .op6XNN x _ | .op7XNN x _ | .op8XY0 x _ | .op8XY1 x _ | .op8XY2 x _ | .op8XY3 x _
  | .opCXNN x _ | .opFX07 x | .opFX0A x => [x]
  | .op8XY4 x _ | .op8XY5 x _ | .op8XY6 x _ | .op8XY7 x _ | .op8XYE x _ => [x, regF]
  | .opDXYN _ _ _ => [regF]
  | .opFX65 x => (List.finRange 16).filter fun k => k ≤ x
  | .op00E0 | .op00EE | .op1NNN _ | .op2NNN _ | .op3XNN _ _ | .op4XNN _ _ | .op5XY0 _ _
  | .op9XY0 _ _ | .opANNN _ | .opBNNN _ | .opEX9E _ | .opEXA1 _ | .opFX15 _ | .opFX18 _
  | .opFX1E _ | .opFX29 _ | .opFX33 _ | .opFX55 _ => []

/-- 10_state.md section 1: a general register changes only by an instruction of the writers' list that
has it as destination, or as VF where the instruction writes a flag. -/
def Obligations.RegistersChangeOnlyByTheirWriters : Prop :=
  ∀ (i : Instr) (s t : State), exec i s = .next t → KeepsRegsBut (mayWrite i) s t

/-- The fatal condition an instruction raises, by the table of 60_exceptions.md section 1. -/
def Sys2Proof.Claims.Raises (i : Instr) (s : State) (f : Fault) : Prop :=
  match i with
  | .op00EE => s.sp.val = 0 ∧ f = .stackUnderflow (s.pc - 2)
  | .op2NNN _ => s.sp.val = 16 ∧ f = .stackOverflow (s.pc - 2)
  | .opDXYN _ _ n => 0 < n.val ∧ 0xFFF < s.i.toNat + (n.val - 1) ∧ f = .memoryOutOfRange s.i
  | .opFX33 _ => 0xFFF < s.i.toNat + 2 ∧ f = .memoryOutOfRange s.i
  | .opFX55 x | .opFX65 x => 0xFFF < s.i.toNat + x.val ∧ f = .memoryOutOfRange s.i
  | .opEX9E x | .opEXA1 x =>
    15 < (s.getV x).toNat ∧ f = .keyIndexOutOfRange ((s.getV x).setWidth 16)
  | .op00E0 | .op1NNN _ | .op3XNN _ _ | .op4XNN _ _ | .op5XY0 _ _ | .op6XNN _ _ | .op7XNN _ _
  | .op8XY0 _ _ | .op8XY1 _ _ | .op8XY2 _ _ | .op8XY3 _ _ | .op8XY4 _ _ | .op8XY5 _ _
  | .op8XY6 _ _ | .op8XY7 _ _ | .op8XYE _ _ | .op9XY0 _ _ | .opANNN _ | .opBNNN _ | .opCXNN _ _
  | .opFX07 _ | .opFX0A _ | .opFX15 _ | .opFX18 _ | .opFX1E _ | .opFX29 _ => False

/-- 60_exceptions.md section 1 (D6, D7, D11: the spec's own decisions): each instruction raises exactly
the condition of the table, exactly when its cause holds, with the info value of the table; no other
instruction raises anything, and none is refused. -/
def Obligations.InstructionsRaiseExactlyTheListedConditions : Prop :=
  ∀ (i : Instr) (s : State), (∀ f, exec i s = .fault f ↔ Raises i s f) ∧
    ∀ r, exec i s ≠ .refused r

/-- 40_step.md section 2 (determinism): the random byte reaches the outcome only through CXNN. -/
def Obligations.RandomByteReachesOnlyCXNN : Prop :=
  ∀ (i : Instr) (s : State) (b : Byte), (∀ x nn, i ≠ .opCXNN x nn) →
    exec i { s with rnd := b } = mapNext (fun t => { t with rnd := b }) (exec i s)

/-- 40_step.md section 2 (determinism): the key latch reaches the outcome only through EX9E, EXA1 and
FX0A, but for KEY itself, which is state. -/
def Obligations.KeysReachOnlyTheKeyInstructions : Prop :=
  ∀ (i : Instr) (s : State) (keys : Keys), (∀ x, i ≠ .opEX9E x) → (∀ x, i ≠ .opEXA1 x) →
    (∀ x, i ≠ .opFX0A x) →
    exec i { s with key := keys } = mapNext (fun t => { t with key := keys }) (exec i s)

/-! ## Invariants -/

/-- Every step keeps memory in its canonical form, from every state that has it. -/
def Obligations.StepKeepsMemoryCanonical : Prop :=
  ∀ s t : State, s.MemoryCanonical → step s = .next t → t.MemoryCanonical

/-- 10_state.md section 11 (derived there): from every state within the bounds, a step that completes
leaves PC at most 0x10FE and every stack slot in use at most 0x1000, so no PC arithmetic wraps. -/
def Obligations.StepKeepsTheReachableBounds : Prop :=
  ∀ s t : State, s.Bounded → step s = .next t → t.Bounded

/-- The reset state, and every state initialize builds, meets both invariants. -/
def Obligations.ResetMeetsTheInvariants : Prop :=
  State.reset.MemoryCanonical ∧ State.reset.Bounded ∧
    ∀ (c : Config) (rom : List Byte) (s : State), initCore c rom = .ok s →
      s.MemoryCanonical ∧ s.Bounded

/-! ## Loads, moves and logic -/

/-- R142, R143, R144: load immediate, add immediate with no flag, move. -/
def Obligations.LoadAddAndMoveWriteTheirRegister : Prop :=
  ∀ (s : State) (x y : RegNo) (nn : Byte),
    decode (classXNN 0x6 x nn) = .instr (.op6XNN x nn) ∧
    decode (classXNN 0x7 x nn) = .instr (.op7XNN x nn) ∧
    decode (nibbles 0x8 (reg x) (reg y) 0x0) = .instr (.op8XY0 x y) ∧
    (∃ t, exec (.op6XNN x nn) s = .next t ∧ t.getV x = nn ∧ WritesOnlyRegs [x] s t) ∧
    (∃ t, exec (.op7XNN x nn) s = .next t ∧
      (t.getV x).toNat = ((s.getV x).toNat + nn.toNat) % 256 ∧ WritesOnlyRegs [x] s t) ∧
    (∃ t, exec (.op8XY0 x y) s = .next t ∧ t.getV x = s.getV y ∧ WritesOnlyRegs [x] s t)

/-- R145, R146, R147: OR, AND, XOR write V[x] and no flag. -/
def Obligations.LogicWritesTheRegisterAndNoFlag : Prop :=
  ∀ (s : State) (x y : RegNo),
    decode (nibbles 0x8 (reg x) (reg y) 0x1) = .instr (.op8XY1 x y) ∧
    decode (nibbles 0x8 (reg x) (reg y) 0x2) = .instr (.op8XY2 x y) ∧
    decode (nibbles 0x8 (reg x) (reg y) 0x3) = .instr (.op8XY3 x y) ∧
    (∃ t, exec (.op8XY1 x y) s = .next t ∧
      (t.getV x).toNat = (s.getV x).toNat ||| (s.getV y).toNat ∧ WritesOnlyRegs [x] s t) ∧
    (∃ t, exec (.op8XY2 x y) s = .next t ∧
      (t.getV x).toNat = (s.getV x).toNat &&& (s.getV y).toNat ∧ WritesOnlyRegs [x] s t) ∧
    (∃ t, exec (.op8XY3 x y) s = .next t ∧
      (t.getV x).toNat = (s.getV x).toNat ^^^ (s.getV y).toNat ∧ WritesOnlyRegs [x] s t)

/-! ## Arithmetic with a flag -/

/-- 42_alu.md section 4: the sum mod 256 in V[x], the carry in VF; with x = F the sum is what VF holds
(D5, the spec's own decision). -/
def Obligations.AddSetsSumAndCarry : Prop :=
  ∀ (s : State) (x y : RegNo),
    decode (nibbles 0x8 (reg x) (reg y) 0x4) = .instr (.op8XY4 x y) ∧
    ∃ t, exec (.op8XY4 x y) s = .next t ∧
      (t.getV x).toNat = ((s.getV x).toNat + (s.getV y).toNat) % 256 ∧
      (x ≠ regF → flagIs (t.getV regF) ((s.getV x).toNat + (s.getV y).toNat > 255)) ∧
      WritesOnlyRegs [x, regF] s t

/-- 42_alu.md section 4: 8XY5 and 8XY7 where neither operand is VF: the strict comparison in VF (log
entry 13) and the difference mod 256 in V[x]. -/
def Obligations.SubtractSetsDifferenceAndComparison : Prop :=
  ∀ (s : State) (x y : RegNo), x ≠ regF → y ≠ regF →
    decode (nibbles 0x8 (reg x) (reg y) 0x5) = .instr (.op8XY5 x y) ∧
    decode (nibbles 0x8 (reg x) (reg y) 0x7) = .instr (.op8XY7 x y) ∧
    (∃ t, exec (.op8XY5 x y) s = .next t ∧
      (t.getV x).toNat = ((s.getV x).toNat + 256 - (s.getV y).toNat) % 256 ∧
      flagIs (t.getV regF) ((s.getV x).toNat > (s.getV y).toNat) ∧ WritesOnlyRegs [x, regF] s t) ∧
    (∃ t, exec (.op8XY7 x y) s = .next t ∧
      (t.getV x).toNat = ((s.getV y).toNat + 256 - (s.getV x).toNat) % 256 ∧
      flagIs (t.getV regF) ((s.getV y).toNat > (s.getV x).toNat) ∧ WritesOnlyRegs [x, regF] s t)

/-- 42_alu.md section 4: 8XY6 and 8XYE where V[x] is not VF: the bit shifted out in VF, y ignored. -/
def Obligations.ShiftsMoveTheLostBitToVF : Prop :=
  ∀ (s : State) (x y : RegNo), x ≠ regF →
    decode (nibbles 0x8 (reg x) (reg y) 0x6) = .instr (.op8XY6 x y) ∧
    decode (nibbles 0x8 (reg x) (reg y) 0xE) = .instr (.op8XYE x y) ∧
    (∃ t, exec (.op8XY6 x y) s = .next t ∧ (t.getV x).toNat = (s.getV x).toNat / 2 ∧
      (t.getV regF).toNat = (s.getV x).toNat % 2 ∧ WritesOnlyRegs [x, regF] s t) ∧
    (∃ t, exec (.op8XYE x y) s = .next t ∧ (t.getV x).toNat = (s.getV x).toNat * 2 % 256 ∧
      (t.getV regF).toNat = (s.getV x).toNat / 128 ∧ WritesOnlyRegs [x, regF] s t)

/-- 42_alu.md section 6, the table of VF as an operand (derived there from the statement order of D5,
the spec's own decision, log entry 10): every cell for 8XY4, 8XY5, 8XY6, 8XY7 and 8XYE; `f`, `a`, `b`
as there. The cells of 8XY5 and 8XY7 also rest on the strict comparison, by which equal operands give
0: the spec's open point I7 (log entry 13), which is the model's flagged choice. -/
def Obligations.VFAsOperandFollowsTheStatementOrder : Prop :=
  ∀ (s : State) (f : Nat), f = (s.getV regF).toNat →
    -- x = F, y != F
    (∀ y b, y ≠ regF → b = (s.getV y).toNat →
      (∃ t, exec (.op8XY4 regF y) s = .next t ∧ (t.getV regF).toNat = (f + b) % 256 ∧
        WritesOnlyRegs [regF] s t) ∧
      (∃ t, exec (.op8XY5 regF y) s = .next t ∧
        (t.getV regF).toNat = ((if f > b then 1 else 0) + 256 - b) % 256 ∧
        WritesOnlyRegs [regF] s t) ∧
      (∃ t, exec (.op8XY7 regF y) s = .next t ∧
        (t.getV regF).toNat = (b + 256 - (if b > f then 1 else 0)) % 256 ∧
        WritesOnlyRegs [regF] s t)) ∧
    -- y = F, x != F
    (∀ x a, x ≠ regF → a = (s.getV x).toNat →
      (∃ t, exec (.op8XY4 x regF) s = .next t ∧ (t.getV x).toNat = (a + f) % 256 ∧
        flagIs (t.getV regF) (a + f > 255) ∧ WritesOnlyRegs [x, regF] s t) ∧
      (∃ t, exec (.op8XY5 x regF) s = .next t ∧
        (t.getV x).toNat = (a + 256 - (if a > f then 1 else 0)) % 256 ∧
        flagIs (t.getV regF) (a > f) ∧ WritesOnlyRegs [x, regF] s t) ∧
      (∃ t, exec (.op8XY6 x regF) s = .next t ∧ (t.getV x).toNat = a / 2 ∧
        (t.getV regF).toNat = a % 2 ∧ WritesOnlyRegs [x, regF] s t) ∧
      (∃ t, exec (.op8XY7 x regF) s = .next t ∧
        (t.getV x).toNat = ((if f > a then 1 else 0) + 256 - a) % 256 ∧
        flagIs (t.getV regF) (f > a) ∧ WritesOnlyRegs [x, regF] s t) ∧
      (∃ t, exec (.op8XYE x regF) s = .next t ∧ (t.getV x).toNat = a * 2 % 256 ∧
        (t.getV regF).toNat = a / 128 ∧ WritesOnlyRegs [x, regF] s t)) ∧
    -- x = F, any y for the shifts, and x = y = F
    (∀ y, (∃ t, exec (.op8XY6 regF y) s = .next t ∧ t.getV regF = 0 ∧ WritesOnlyRegs [regF] s t) ∧
      (∃ t, exec (.op8XYE regF y) s = .next t ∧ (t.getV regF).toNat = 2 * (f / 128) ∧
        WritesOnlyRegs [regF] s t)) ∧
    (∃ t, exec (.op8XY4 regF regF) s = .next t ∧ (t.getV regF).toNat = 2 * f % 256 ∧
      WritesOnlyRegs [regF] s t) ∧
    (∃ t, exec (.op8XY5 regF regF) s = .next t ∧ t.getV regF = 0 ∧ WritesOnlyRegs [regF] s t) ∧
    (∃ t, exec (.op8XY7 regF regF) s = .next t ∧ t.getV regF = 0 ∧ WritesOnlyRegs [regF] s t)

/-- 42_alu.md section 5 (D3, the spec's own decision): V[x] becomes nn AND the random byte of the
step, for every value of that byte: 0 if nn is 0, the byte itself if nn is 0xFF. -/
def Obligations.RandomIsMaskedByTheImmediate : Prop :=
  ∀ (s : State) (x : RegNo) (nn : Byte),
    decode (classXNN 0xC x nn) = .instr (.opCXNN x nn) ∧
    ∃ t, exec (.opCXNN x nn) s = .next t ∧ (t.getV x).toNat = nn.toNat &&& s.rnd.toNat ∧
      (nn = 0 → t.getV x = 0) ∧ (nn = 0xFF → t.getV x = s.rnd) ∧ WritesOnlyRegs [x] s t

/-! ## Display -/

/-- R171: every pixel is 0 afterwards; VF is not written. -/
def Obligations.ClearTurnsEveryPixelOff : Prop :=
  decode (nibbles 0x0 0x0 0xE 0x0) = .instr .op00E0 ∧
  ∀ s : State, ∃ t, exec .op00E0 s = .next t ∧ (∀ c r, t.pixel c r = false) ∧
    KeepsRegs s t ∧ KeepsPc s t ∧ KeepsIndex s t ∧ KeepsStack s t ∧ KeepsTimers s t ∧
    KeepsLatches s t ∧ KeepsMemory s t ∧ KeepsHost s t

/-- A set bit of the sprite that DXYN would draw from state `s` lands on pixel (c, r): the loop of
43_display.md, its coordinates reduced first and after the offsets are added. -/
def Sys2Proof.Claims.SpriteCovers (s : State) (x y : RegNo) (n : Fin 16) (c : Fin 64) (r : Fin 32) :
    Prop :=
  ∃ row col, row < n.val ∧ col < 8 ∧ (s.readByte (s.i.toNat + row)).getLsbD (7 - col) = true ∧
    c.val = ((s.getV x).toNat % 64 + col) % 64 ∧ r.val = ((s.getV y).toNat % 32 + row) % 32

/-- 43_display.md (D6, D17: the spec's own decisions): DXYN toggles exactly the pixels under the
sprite's set bits, wrapping pixel by pixel; VF is 1 exactly if one of them was on; nothing else
changes. If a sprite byte is out of range it raises MemoryOutOfRange instead. -/
def Obligations.DrawTogglesTheSpritesPixels : Prop :=
  ∀ (s : State) (x y : RegNo) (n : Fin 16),
    decode (nibbles 0xD (reg x) (reg y) (reg n)) = .instr (.opDXYN x y n) ∧
    (n.val = 0 ∨ s.i.toNat + (n.val - 1) ≤ 0xFFF → ∃ t, exec (.opDXYN x y n) s = .next t ∧
      (∀ c r, SpriteCovers s x y n c r → t.pixel c r = !s.pixel c r) ∧
      (∀ c r, ¬SpriteCovers s x y n c r → t.pixel c r = s.pixel c r) ∧
      flagIs (t.getV regF) (∃ c r, SpriteCovers s x y n c r ∧ s.pixel c r = true) ∧
      KeepsRegsBut [regF] s t ∧ KeepsPc s t ∧ KeepsIndex s t ∧ KeepsStack s t ∧ KeepsTimers s t ∧
      KeepsLatches s t ∧ KeepsMemory s t ∧ KeepsHost s t) ∧
    (0 < n.val ∧ 0xFFF < s.i.toNat + (n.val - 1) →
      exec (.opDXYN x y n) s = .fault (.memoryOutOfRange s.i))

/-- 43_display.md: the same sprite drawn again, from the same memory at the same V[x], V[y] and I with
the screen the first draw left, restores the screen (the draw laws, derived there). VF by the
pseudocode of DXYN: after the second draw it is 1 exactly if a pixel under the sprite was off before
the first, so from a clear screen exactly if the sprite has a set bit. This clause is the model's own
deduction from R172 against the wording of R173 (a), by which any set bit gives 1 (log entry 20).
Which pixels lie under the sprite rests on the wrap of D17, the spec's own decision (log entry 22). -/
def Obligations.DrawingTwiceRestoresTheScreen : Prop :=
  ∀ (s s' t u : State) (x y : RegNo) (n : Fin 16),
    exec (.opDXYN x y n) s = .next t →
    KeepsScreen t s' → KeepsMemory s s' → s'.getV x = s.getV x → s'.getV y = s.getV y → s'.i = s.i →
    exec (.opDXYN x y n) s' = .next u →
      KeepsScreen s u ∧
      flagIs (u.getV regF) (∃ c r, SpriteCovers s x y n c r ∧ s.pixel c r = false) ∧
      ((∀ c r, s.pixel c r = false) → (t.getV regF).toNat = 0 ∧
        flagIs (u.getV regF) (∃ c r, SpriteCovers s x y n c r))

/-! ## Control flow -/

/-- R122, R124: a jump writes the 12-bit address, or its natural sum with V0, to PC. -/
def Obligations.JumpsWriteTheTargetToPc : Prop :=
  ∀ (s : State) (nnn : Addr12),
    decode (classNNN 0x1 nnn) = .instr (.op1NNN nnn) ∧
    decode (classNNN 0xB nnn) = .instr (.opBNNN nnn) ∧
    (∃ t, exec (.op1NNN nnn) s = .next t ∧ t.pc.toNat = nnn.toNat ∧ WritesOnlyPc s t) ∧
    (∃ t, exec (.opBNNN nnn) s = .next t ∧ t.pc.toNat = nnn.toNat + (s.getV 0).toNat ∧
      WritesOnlyPc s t)

/-- 41_control_flow.md section 2: a call stores PC in slot SP, counts it and jumps. -/
def Obligations.CallPushesAndJumps : Prop :=
  ∀ (s : State) (nnn : Addr12),
    decode (classNNN 0x2 nnn) = .instr (.op2NNN nnn) ∧
    (s.sp.val < 16 → ∃ t, exec (.op2NNN nnn) s = .next t ∧ t.pc.toNat = nnn.toNat ∧
      t.sp.val = s.sp.val + 1 ∧
      (∀ k : Fin 16, k.val = s.sp.val → t.stack[k] = s.pc) ∧
      (∀ k : Fin 16, k.val ≠ s.sp.val → t.stack[k] = s.stack[k]) ∧
      KeepsRegs s t ∧ KeepsIndex s t ∧ KeepsTimers s t ∧ KeepsLatches s t ∧ KeepsScreen s t ∧
      KeepsMemory s t ∧ KeepsHost s t)

/-- 41_control_flow.md section 2: a return takes the last pushed word as PC and does not clear its
slot. -/
def Obligations.ReturnPopsIntoPc : Prop :=
  decode (nibbles 0x0 0x0 0xE 0xE) = .instr .op00EE ∧
  ∀ s : State, 0 < s.sp.val → ∃ t, exec .op00EE s = .next t ∧ t.sp.val + 1 = s.sp.val ∧
    (∀ k : Fin 16, k.val + 1 = s.sp.val → t.pc = s.stack[k]) ∧
    (∀ k : Fin 16, t.stack[k] = s.stack[k]) ∧
    KeepsRegs s t ∧ KeepsIndex s t ∧ KeepsTimers s t ∧ KeepsLatches s t ∧ KeepsScreen s t ∧
    KeepsMemory s t ∧ KeepsHost s t

/-- R223, R224: 2NNN overflows exactly when SP = 16 and 00EE underflows exactly when SP = 0, and the
step ends there, with no next state. -/
def Obligations.StackFaultsExactlyWhenFullOrEmpty : Prop :=
  ∀ (s : State) (nnn : Addr12),
    (s.sp.val = 16 ↔ ∃ a, exec (.op2NNN nnn) s = .fault (.stackOverflow a)) ∧
    (s.sp.val = 0 ↔ ∃ a, exec .op00EE s = .fault (.stackUnderflow a)) ∧
    (s.sp.val = 16 → ∀ t, exec (.op2NNN nnn) s ≠ .next t) ∧
    (s.sp.val = 0 → ∀ t, exec .op00EE s ≠ .next t)

/-- 41_control_flow.md section 3 (derived there): after a call, code that leaves SP and the slots in
use as it found them, and a return, PC is what it was when the call executed, the address after the
call; the stack is as deep as before. -/
def Obligations.CallThenReturnComesBack : Prop :=
  ∀ (s t u v : State) (nnn : Addr12), exec (.op2NNN nnn) s = .next t →
    u.sp = t.sp → (∀ k : Fin 16, k.val < t.sp.val → u.stack[k] = t.stack[k]) →
    exec .op00EE u = .next v → v.pc = s.pc ∧ v.sp = s.sp

/-- R125, R126: skip if V[x] equals the immediate, or differs from it. -/
def Obligations.ImmediateSkipsAddTwo : Prop :=
  ∀ (s : State) (x : RegNo) (nn : Byte),
    decode (classXNN 0x3 x nn) = .instr (.op3XNN x nn) ∧
    decode (classXNN 0x4 x nn) = .instr (.op4XNN x nn) ∧
    (∃ t, exec (.op3XNN x nn) s = .next t ∧ WritesOnlyPc s t ∧
      (s.getV x = nn → t.pc.toNat = (s.pc.toNat + 2) % 65536) ∧ (s.getV x ≠ nn → KeepsPc s t)) ∧
    (∃ t, exec (.op4XNN x nn) s = .next t ∧ WritesOnlyPc s t ∧
      (s.getV x ≠ nn → t.pc.toNat = (s.pc.toNat + 2) % 65536) ∧ (s.getV x = nn → KeepsPc s t))

/-- 41_control_flow.md section 3: skip if two registers are equal, or differ; a low nibble that is not
0 is unknown (D4, the spec's own decision). -/
def Obligations.RegisterSkipsAddTwo : Prop :=
  ∀ (s : State) (x y : RegNo),
    decode (nibbles 0x5 (reg x) (reg y) 0x0) = .instr (.op5XY0 x y) ∧
    decode (nibbles 0x9 (reg x) (reg y) 0x0) = .instr (.op9XY0 x y) ∧
    (∀ n, n ≠ 0 → decode (nibbles 0x5 (reg x) (reg y) n) = .unknown (nibbles 0x5 (reg x) (reg y) n) ∧
      decode (nibbles 0x9 (reg x) (reg y) n) = .unknown (nibbles 0x9 (reg x) (reg y) n)) ∧
    (∃ t, exec (.op5XY0 x y) s = .next t ∧ WritesOnlyPc s t ∧
      (s.getV x = s.getV y → t.pc.toNat = (s.pc.toNat + 2) % 65536) ∧
      (s.getV x ≠ s.getV y → KeepsPc s t)) ∧
    (∃ t, exec (.op9XY0 x y) s = .next t ∧ WritesOnlyPc s t ∧
      (s.getV x ≠ s.getV y → t.pc.toNat = (s.pc.toNat + 2) % 65536) ∧
      (s.getV x = s.getV y → KeepsPc s t))

/-! ## Keys and timers -/

/-- 44_keys_timers.md: skip if key V[x] is pressed, or not pressed, in KEY; above 15 the fatal
condition KeyIndexOutOfRange (D7, the spec's own decision). -/
def Obligations.KeySkipsTestTheLatchedLevel : Prop :=
  ∀ (s : State) (x : RegNo),
    decode (classXNN 0xE x 0x9E) = .instr (.opEX9E x) ∧
    decode (classXNN 0xE x 0xA1) = .instr (.opEXA1 x) ∧
    (∀ k : Fin 16, (s.getV x).toNat = k.val →
      (∃ t, exec (.opEX9E x) s = .next t ∧ WritesOnlyPc s t ∧
        (s.key[k] = true → t.pc.toNat = (s.pc.toNat + 2) % 65536) ∧
        (s.key[k] = false → KeepsPc s t)) ∧
      (∃ t, exec (.opEXA1 x) s = .next t ∧ WritesOnlyPc s t ∧
        (s.key[k] = false → t.pc.toNat = (s.pc.toNat + 2) % 65536) ∧
        (s.key[k] = true → KeepsPc s t))) ∧
    (15 < (s.getV x).toNat →
      (∃ v, exec (.opEX9E x) s = .fault (.keyIndexOutOfRange v) ∧ v.toNat = (s.getV x).toNat) ∧
      (∃ v, exec (.opEXA1 x) s = .fault (.keyIndexOutOfRange v) ∧ v.toNat = (s.getV x).toNat))

/-- R188: V[x] gets DT's value before this step's decrement; after the step DT is one less. -/
def Obligations.DelayTimerIsReadBeforeItsDecrement : Prop :=
  ∀ (s : State) (x : RegNo),
    decode (classXNN 0xF x 0x07) = .instr (.opFX07 x) ∧
    (∃ t, exec (.opFX07 x) s = .next t ∧ t.getV x = s.dt ∧ WritesOnlyRegs [x] s t) ∧
    (FetchesInstr s (.opFX07 x) → ∃ u, step s = .next u ∧ u.getV x = s.dt ∧
      u.dt.toNat = s.dt.toNat - 1)

/-- R189: FX0A gives V[x] the lowest-numbered pressed key; with no key pressed it leaves V[x] as it is
and PC back at itself, as a completed step in which the timers count down. -/
def Obligations.KeyWaitRetriesUntilAKeyIsPressed : Prop :=
  ∀ (s : State) (x : RegNo),
    decode (classXNN 0xF x 0x0A) = .instr (.opFX0A x) ∧
    (∀ k : Fin 16, s.key[k] = true → (∀ j : Fin 16, j < k → s.key[j] = false) →
      ∃ t, exec (.opFX0A x) s = .next t ∧ (t.getV x).toNat = k.val ∧ WritesOnlyRegs [x] s t) ∧
    ((∀ k : Fin 16, s.key[k] = false) → ∃ t, exec (.opFX0A x) s = .next t ∧ WritesOnlyPc s t ∧
      (2 ≤ s.pc.toNat → t.pc.toNat = s.pc.toNat - 2)) ∧
    (FetchesInstr s (.opFX0A x) → (∀ k : Fin 16, s.stepInput.keys[k] = false) →
      ∃ u, step s = .next u ∧ u.report = .ok ∧ u.pc = s.pc ∧ KeepsRegs s u ∧
        u.dt.toNat = s.dt.toNat - 1 ∧ u.st.toNat = s.st.toNat - 1) ∧
    (∀ k : Fin 16, FetchesInstr s (.opFX0A x) → s.stepInput.keys[k] = true →
      (∀ j : Fin 16, j < k → s.stepInput.keys[j] = false) →
      ∃ u, step s = .next u ∧ u.report = .ok ∧ u.pc.toNat = s.pc.toNat + 2 ∧
        (u.getV x).toNat = k.val ∧ KeepsRegsBut [x] s u)

/-! ## Index register and memory -/

/-- R201, R203: I becomes the 12-bit address, or the address of a glyph with V[x] not reduced. -/
def Obligations.IndexLoadsAddressOrGlyph : Prop :=
  ∀ (s : State) (nnn : Addr12) (x : RegNo),
    decode (classNNN 0xA nnn) = .instr (.opANNN nnn) ∧
    decode (classXNN 0xF x 0x29) = .instr (.opFX29 x) ∧
    (∃ t, exec (.opANNN nnn) s = .next t ∧ t.i.toNat = nnn.toNat ∧ WritesOnlyIndex s t) ∧
    (∃ t, exec (.opFX29 x) s = .next t ∧ t.i.toNat = 0x050 + (s.getV x).toNat * 5 ∧
      WritesOnlyIndex s t)

/-- 45_index_memory.md: I + V[x] mod 2^16 under the policy wrap16, the only one the spec defines (D16,
log entry 3); VF is not written under any value. -/
def Obligations.IndexAddWrapsAtSixteenBits : Prop :=
  ∀ (s : State) (x : RegNo),
    decode (classXNN 0xF x 0x1E) = .instr (.opFX1E x) ∧
    ∃ t, exec (.opFX1E x) s = .next t ∧
      t.i.toNat = (s.i.toNat + (s.getV x).toNat) % 65536 ∧ WritesOnlyIndex s t

/-- 45_index_memory.md (D6, the spec's own decision): FX33 stores the hundreds, tens and ones of V[x]
at I, I+1, I+2, if all three exist, and changes nothing else; else MemoryOutOfRange. -/
def Obligations.DecimalDigitsAreStoredAtTheIndex : Prop :=
  ∀ (s : State) (x : RegNo), s.MemoryCanonical →
    decode (classXNN 0xF x 0x33) = .instr (.opFX33 x) ∧
    (s.i.toNat + 2 ≤ 0xFFF → ∃ t, exec (.opFX33 x) s = .next t ∧
      (t.readByte s.i.toNat).toNat = (s.getV x).toNat / 100 ∧
      (t.readByte (s.i.toNat + 1)).toNat = (s.getV x).toNat / 10 % 10 ∧
      (t.readByte (s.i.toNat + 2)).toNat = (s.getV x).toNat % 10 ∧
      WritesOnlyBytes s.i.toNat 3 s t) ∧
    (0xFFF < s.i.toNat + 2 → exec (.opFX33 x) s = .fault (.memoryOutOfRange s.i))

/-- 45_index_memory.md (D6, D25: the spec's own decisions): FX55 stores V0..V[x] at I upward, anywhere
in memory, if the whole block exists, and changes nothing else, I included; else MemoryOutOfRange. -/
def Obligations.RegisterBlockIsStoredAtTheIndex : Prop :=
  ∀ (s : State) (x : RegNo), s.MemoryCanonical →
    decode (classXNN 0xF x 0x55) = .instr (.opFX55 x) ∧
    (s.i.toNat + x.val ≤ 0xFFF → ∃ t, exec (.opFX55 x) s = .next t ∧
      (∀ k : RegNo, k ≤ x → t.readByte (s.i.toNat + k.val) = s.getV k) ∧
      WritesOnlyBytes s.i.toNat (x.val + 1) s t) ∧
    (0xFFF < s.i.toNat + x.val → exec (.opFX55 x) s = .fault (.memoryOutOfRange s.i))

/-- 45_index_memory.md (D6, the spec's own decision): FX65 loads V0..V[x] from I upward, if the whole
block exists, and changes nothing else, I included; else MemoryOutOfRange. -/
def Obligations.RegisterBlockIsLoadedFromTheIndex : Prop :=
  ∀ (s : State) (x : RegNo),
    decode (classXNN 0xF x 0x65) = .instr (.opFX65 x) ∧
    (s.i.toNat + x.val ≤ 0xFFF → ∃ t, exec (.opFX65 x) s = .next t ∧
      (∀ k : RegNo, k ≤ x → t.getV k = s.readByte (s.i.toNat + k.val)) ∧
      (∀ k : RegNo, x < k → t.getV k = s.getV k) ∧ KeepsPc s t ∧ KeepsRest s t) ∧
    (0xFFF < s.i.toNat + x.val → exec (.opFX65 x) s = .fault (.memoryOutOfRange s.i))

/-- 20_memory.md section 4 (derived there): the bytes FX55 stored are what a later fetch at their
address sees, the lower address as the high byte; no fence is needed. -/
def Obligations.StoredRegistersAreFetchedBigEndian : Prop :=
  ∀ (s t : State) (x k : RegNo) (h : k.val + 1 < 16) (a : Word), s.MemoryCanonical →
    exec (.opFX55 x) s = .next t → k.val + 1 ≤ x.val → a.toNat = s.i.toNat + k.val →
      (t.setPc a).prepared.ir.toNat =
        (s.getV k).toNat * 256 + (s.getV ⟨k.val + 1, h⟩).toNat

/-- 20_memory.md section 5 (D14, the spec's own decision): a read gives the byte last written to its
address, and a write to one address leaves every other as it was; reading changes nothing. -/
def Obligations.ReadGivesTheLastByteWritten : Prop :=
  ∀ (s : State) (a b : Nat) (v : Byte), s.MemoryCanonical → a < 4096 →
    (s.writeByte a v).MemoryCanonical ∧ (s.writeByte a v).readByte a = v ∧
    (a ≠ b → (s.writeByte a v).readByte b = s.readByte b)

/-! ## The step's outputs -/

/-- The outputs of a step of instruction `i` from `s` that ends in a fatal condition: the causes, codes
and info values of the two tables of 60_exceptions.md section 1, over the state the step starts in,
where PC is the instruction's own address. -/
def Sys2Proof.Claims.FatalOutput (i : Instr) (s : State) (o : StepOutput) : Prop :=
  match i with
  | .op2NNN _ => s.sp.val = 16 ∧ o = ⟨3, s.pc⟩
  | .op00EE => s.sp.val = 0 ∧ o = ⟨4, s.pc⟩
  | .opDXYN _ _ n => 0 < n.val ∧ 0xFFF < s.i.toNat + (n.val - 1) ∧ o = ⟨5, s.i⟩
  | .opFX33 _ => 0xFFF < s.i.toNat + 2 ∧ o = ⟨5, s.i⟩
  | .opFX55 x | .opFX65 x => 0xFFF < s.i.toNat + x.val ∧ o = ⟨5, s.i⟩
  | .opEX9E x | .opEXA1 x => 15 < (s.getV x).toNat ∧ o = ⟨6, (s.getV x).setWidth 16⟩
  | .op00E0 | .op1NNN _ | .op3XNN _ _ | .op4XNN _ _ | .op5XY0 _ _ | .op6XNN _ _ | .op7XNN _ _
  | .op8XY0 _ _ | .op8XY1 _ _ | .op8XY2 _ _ | .op8XY3 _ _ | .op8XY4 _ _ | .op8XY5 _ _
  | .op8XY6 _ _ | .op8XY7 _ _ | .op8XYE _ _ | .op9XY0 _ _ | .opANNN _ | .opBNNN _ | .opCXNN _ _
  | .opFX07 _ | .opFX0A _ | .opFX15 _ | .opFX18 _ | .opFX1E _ | .opFX29 _ => False

/-- 60_exceptions.md section 1 (the causes by D6 and D7, the codes and info values by D11: the spec's
own decisions; log entries 11 and 16): the result code and the info value of every step, from the state
it starts in. The three cases of the fetched word are those of FetchFailsExactlyAtTheEndOfMemory and
TableRowsDivideTheWords (D10, D4). -/
def Obligations.StepOutputsFollowTheCodeTable : Prop :=
  ∀ s : State,
    (4096 ≤ s.pc.toNat + 1 → stepOutput (step s) = some ⟨2, s.pc⟩) ∧
    (∀ i, FetchesInstr s i →
      (∀ o, FatalOutput i s o → stepOutput (step s) = some o) ∧
      ((∀ o, ¬FatalOutput i s o) → stepOutput (step s) = some ⟨0, 0⟩)) ∧
    (∀ w, s.pc.toNat + 1 < 4096 →
      w = joinBytes (s.readByte s.pc.toNat) (s.readByte (s.pc.toNat + 1)) →
      (∀ r ∈ opcodeTable, r.accepts w = false) → stepOutput (step s) = some ⟨1, w⟩) ∧
    ∃ o, stepOutput (step s) = some o
end

