-- ==== Sys2Proof/Laws/State.lean ====
section
/-! SUPPORT. One lemma per field per update of the state, each true by rfl, so that no proof unfolds a
record update; and the same for memory reads and pixels through updates that do not touch them. -/

namespace Sys2Proof.Machine

/-! `setV` -/

@[simp] theorem State.setV_v (s : State) (x : RegNo) (b : Byte) : (s.setV x b).v = s.v.set x b := rfl
@[simp] theorem State.setV_i (s : State) (x : RegNo) (b : Byte) : (s.setV x b).i = s.i := rfl
@[simp] theorem State.setV_pc (s : State) (x : RegNo) (b : Byte) : (s.setV x b).pc = s.pc := rfl
@[simp] theorem State.setV_sp (s : State) (x : RegNo) (b : Byte) : (s.setV x b).sp = s.sp := rfl
@[simp] theorem State.setV_stack (s : State) (x : RegNo) (b : Byte) : (s.setV x b).stack = s.stack := rfl
@[simp] theorem State.setV_dt (s : State) (x : RegNo) (b : Byte) : (s.setV x b).dt = s.dt := rfl
@[simp] theorem State.setV_st (s : State) (x : RegNo) (b : Byte) : (s.setV x b).st = s.st := rfl
@[simp] theorem State.setV_key (s : State) (x : RegNo) (b : Byte) : (s.setV x b).key = s.key := rfl
@[simp] theorem State.setV_fb (s : State) (x : RegNo) (b : Byte) : (s.setV x b).fb = s.fb := rfl
@[simp] theorem State.setV_ir (s : State) (x : RegNo) (b : Byte) : (s.setV x b).ir = s.ir := rfl
@[simp] theorem State.setV_mem (s : State) (x : RegNo) (b : Byte) : (s.setV x b).mem = s.mem := rfl
@[simp] theorem State.setV_config (s : State) (x : RegNo) (b : Byte) : (s.setV x b).config = s.config := rfl
@[simp] theorem State.setV_rnd (s : State) (x : RegNo) (b : Byte) : (s.setV x b).rnd = s.rnd := rfl
@[simp] theorem State.setV_inputs (s : State) (x : RegNo) (b : Byte) : (s.setV x b).inputs = s.inputs := rfl
@[simp] theorem State.setV_stepCount (s : State) (x : RegNo) (b : Byte) : (s.setV x b).stepCount = s.stepCount := rfl
@[simp] theorem State.setV_report (s : State) (x : RegNo) (b : Byte) : (s.setV x b).report = s.report := rfl
@[simp] theorem State.setV_pixel (s : State) (x : RegNo) (b : Byte) (c : Fin 64) (r : Fin 32) : (s.setV x b).pixel c r = s.pixel c r := rfl
@[simp] theorem State.setV_readByte (s : State) (x : RegNo) (b : Byte) (k : Nat) : (s.setV x b).readByte k = s.readByte k := rfl

/-! `setVBlock` -/

@[simp] theorem State.setVBlock_v (s : State) (l : List Byte) : (s.setVBlock l).v = Vector.ofFn fun k => l.getD k.val s.v[k] := rfl
@[simp] theorem State.setVBlock_i (s : State) (l : List Byte) : (s.setVBlock l).i = s.i := rfl
@[simp] theorem State.setVBlock_pc (s : State) (l : List Byte) : (s.setVBlock l).pc = s.pc := rfl
@[simp] theorem State.setVBlock_sp (s : State) (l : List Byte) : (s.setVBlock l).sp = s.sp := rfl
@[simp] theorem State.setVBlock_stack (s : State) (l : List Byte) : (s.setVBlock l).stack = s.stack := rfl
@[simp] theorem State.setVBlock_dt (s : State) (l : List Byte) : (s.setVBlock l).dt = s.dt := rfl
@[simp] theorem State.setVBlock_st (s : State) (l : List Byte) : (s.setVBlock l).st = s.st := rfl
@[simp] theorem State.setVBlock_key (s : State) (l : List Byte) : (s.setVBlock l).key = s.key := rfl
@[simp] theorem State.setVBlock_fb (s : State) (l : List Byte) : (s.setVBlock l).fb = s.fb := rfl
@[simp] theorem State.setVBlock_ir (s : State) (l : List Byte) : (s.setVBlock l).ir = s.ir := rfl
@[simp] theorem State.setVBlock_mem (s : State) (l : List Byte) : (s.setVBlock l).mem = s.mem := rfl
@[simp] theorem State.setVBlock_config (s : State) (l : List Byte) : (s.setVBlock l).config = s.config := rfl
@[simp] theorem State.setVBlock_rnd (s : State) (l : List Byte) : (s.setVBlock l).rnd = s.rnd := rfl
@[simp] theorem State.setVBlock_inputs (s : State) (l : List Byte) : (s.setVBlock l).inputs = s.inputs := rfl
@[simp] theorem State.setVBlock_stepCount (s : State) (l : List Byte) : (s.setVBlock l).stepCount = s.stepCount := rfl
@[simp] theorem State.setVBlock_report (s : State) (l : List Byte) : (s.setVBlock l).report = s.report := rfl
@[simp] theorem State.setVBlock_pixel (s : State) (l : List Byte) (c : Fin 64) (r : Fin 32) : (s.setVBlock l).pixel c r = s.pixel c r := rfl
@[simp] theorem State.setVBlock_readByte (s : State) (l : List Byte) (k : Nat) : (s.setVBlock l).readByte k = s.readByte k := rfl

/-! `setPc` -/

@[simp] theorem State.setPc_v (s : State) (w : Word) : (s.setPc w).v = s.v := rfl
@[simp] theorem State.setPc_i (s : State) (w : Word) : (s.setPc w).i = s.i := rfl
@[simp] theorem State.setPc_pc (s : State) (w : Word) : (s.setPc w).pc = w := rfl
@[simp] theorem State.setPc_sp (s : State) (w : Word) : (s.setPc w).sp = s.sp := rfl
@[simp] theorem State.setPc_stack (s : State) (w : Word) : (s.setPc w).stack = s.stack := rfl
@[simp] theorem State.setPc_dt (s : State) (w : Word) : (s.setPc w).dt = s.dt := rfl
@[simp] theorem State.setPc_st (s : State) (w : Word) : (s.setPc w).st = s.st := rfl
@[simp] theorem State.setPc_key (s : State) (w : Word) : (s.setPc w).key = s.key := rfl
@[simp] theorem State.setPc_fb (s : State) (w : Word) : (s.setPc w).fb = s.fb := rfl
@[simp] theorem State.setPc_ir (s : State) (w : Word) : (s.setPc w).ir = s.ir := rfl
@[simp] theorem State.setPc_mem (s : State) (w : Word) : (s.setPc w).mem = s.mem := rfl
@[simp] theorem State.setPc_config (s : State) (w : Word) : (s.setPc w).config = s.config := rfl
@[simp] theorem State.setPc_rnd (s : State) (w : Word) : (s.setPc w).rnd = s.rnd := rfl
@[simp] theorem State.setPc_inputs (s : State) (w : Word) : (s.setPc w).inputs = s.inputs := rfl
@[simp] theorem State.setPc_stepCount (s : State) (w : Word) : (s.setPc w).stepCount = s.stepCount := rfl
@[simp] theorem State.setPc_report (s : State) (w : Word) : (s.setPc w).report = s.report := rfl
@[simp] theorem State.setPc_getV (s : State) (w : Word) (k : RegNo) : (s.setPc w).getV k = s.getV k := rfl
@[simp] theorem State.setPc_pixel (s : State) (w : Word) (c : Fin 64) (r : Fin 32) : (s.setPc w).pixel c r = s.pixel c r := rfl
@[simp] theorem State.setPc_readByte (s : State) (w : Word) (k : Nat) : (s.setPc w).readByte k = s.readByte k := rfl

/-! `skipIf` -/

@[simp] theorem State.skipIf_v (s : State) (c : Bool) : (s.skipIf c).v = s.v := rfl
@[simp] theorem State.skipIf_i (s : State) (c : Bool) : (s.skipIf c).i = s.i := rfl
@[simp] theorem State.skipIf_pc (s : State) (c : Bool) : (s.skipIf c).pc = if c then s.pc + 2 else s.pc := rfl
@[simp] theorem State.skipIf_sp (s : State) (c : Bool) : (s.skipIf c).sp = s.sp := rfl
@[simp] theorem State.skipIf_stack (s : State) (c : Bool) : (s.skipIf c).stack = s.stack := rfl
@[simp] theorem State.skipIf_dt (s : State) (c : Bool) : (s.skipIf c).dt = s.dt := rfl
@[simp] theorem State.skipIf_st (s : State) (c : Bool) : (s.skipIf c).st = s.st := rfl
@[simp] theorem State.skipIf_key (s : State) (c : Bool) : (s.skipIf c).key = s.key := rfl
@[simp] theorem State.skipIf_fb (s : State) (c : Bool) : (s.skipIf c).fb = s.fb := rfl
@[simp] theorem State.skipIf_ir (s : State) (c : Bool) : (s.skipIf c).ir = s.ir := rfl
@[simp] theorem State.skipIf_mem (s : State) (c : Bool) : (s.skipIf c).mem = s.mem := rfl
@[simp] theorem State.skipIf_config (s : State) (c : Bool) : (s.skipIf c).config = s.config := rfl
@[simp] theorem State.skipIf_rnd (s : State) (c : Bool) : (s.skipIf c).rnd = s.rnd := rfl
@[simp] theorem State.skipIf_inputs (s : State) (c : Bool) : (s.skipIf c).inputs = s.inputs := rfl
@[simp] theorem State.skipIf_stepCount (s : State) (c : Bool) : (s.skipIf c).stepCount = s.stepCount := rfl
@[simp] theorem State.skipIf_report (s : State) (c : Bool) : (s.skipIf c).report = s.report := rfl
@[simp] theorem State.skipIf_getV (s : State) (c : Bool) (k : RegNo) : (s.skipIf c).getV k = s.getV k := rfl
@[simp] theorem State.skipIf_pixel (s : State) (c : Bool) (k : Fin 64) (r : Fin 32) : (s.skipIf c).pixel k r = s.pixel k r := rfl
@[simp] theorem State.skipIf_readByte (s : State) (c : Bool) (k : Nat) : (s.skipIf c).readByte k = s.readByte k := rfl

/-! `setI` -/

@[simp] theorem State.setI_v (s : State) (w : Word) : (s.setI w).v = s.v := rfl
@[simp] theorem State.setI_i (s : State) (w : Word) : (s.setI w).i = w := rfl
@[simp] theorem State.setI_pc (s : State) (w : Word) : (s.setI w).pc = s.pc := rfl
@[simp] theorem State.setI_sp (s : State) (w : Word) : (s.setI w).sp = s.sp := rfl
@[simp] theorem State.setI_stack (s : State) (w : Word) : (s.setI w).stack = s.stack := rfl
@[simp] theorem State.setI_dt (s : State) (w : Word) : (s.setI w).dt = s.dt := rfl
@[simp] theorem State.setI_st (s : State) (w : Word) : (s.setI w).st = s.st := rfl
@[simp] theorem State.setI_key (s : State) (w : Word) : (s.setI w).key = s.key := rfl
@[simp] theorem State.setI_fb (s : State) (w : Word) : (s.setI w).fb = s.fb := rfl
@[simp] theorem State.setI_ir (s : State) (w : Word) : (s.setI w).ir = s.ir := rfl
@[simp] theorem State.setI_mem (s : State) (w : Word) : (s.setI w).mem = s.mem := rfl
@[simp] theorem State.setI_config (s : State) (w : Word) : (s.setI w).config = s.config := rfl
@[simp] theorem State.setI_rnd (s : State) (w : Word) : (s.setI w).rnd = s.rnd := rfl
@[simp] theorem State.setI_inputs (s : State) (w : Word) : (s.setI w).inputs = s.inputs := rfl
@[simp] theorem State.setI_stepCount (s : State) (w : Word) : (s.setI w).stepCount = s.stepCount := rfl
@[simp] theorem State.setI_report (s : State) (w : Word) : (s.setI w).report = s.report := rfl
@[simp] theorem State.setI_getV (s : State) (w : Word) (k : RegNo) : (s.setI w).getV k = s.getV k := rfl
@[simp] theorem State.setI_pixel (s : State) (w : Word) (c : Fin 64) (r : Fin 32) : (s.setI w).pixel c r = s.pixel c r := rfl
@[simp] theorem State.setI_readByte (s : State) (w : Word) (k : Nat) : (s.setI w).readByte k = s.readByte k := rfl

/-! `setDT` -/

@[simp] theorem State.setDT_v (s : State) (b : Byte) : (s.setDT b).v = s.v := rfl
@[simp] theorem State.setDT_i (s : State) (b : Byte) : (s.setDT b).i = s.i := rfl
@[simp] theorem State.setDT_pc (s : State) (b : Byte) : (s.setDT b).pc = s.pc := rfl
@[simp] theorem State.setDT_sp (s : State) (b : Byte) : (s.setDT b).sp = s.sp := rfl
@[simp] theorem State.setDT_stack (s : State) (b : Byte) : (s.setDT b).stack = s.stack := rfl
@[simp] theorem State.setDT_dt (s : State) (b : Byte) : (s.setDT b).dt = b := rfl
@[simp] theorem State.setDT_st (s : State) (b : Byte) : (s.setDT b).st = s.st := rfl
@[simp] theorem State.setDT_key (s : State) (b : Byte) : (s.setDT b).key = s.key := rfl
@[simp] theorem State.setDT_fb (s : State) (b : Byte) : (s.setDT b).fb = s.fb := rfl
@[simp] theorem State.setDT_ir (s : State) (b : Byte) : (s.setDT b).ir = s.ir := rfl
@[simp] theorem State.setDT_mem (s : State) (b : Byte) : (s.setDT b).mem = s.mem := rfl
@[simp] theorem State.setDT_config (s : State) (b : Byte) : (s.setDT b).config = s.config := rfl
@[simp] theorem State.setDT_rnd (s : State) (b : Byte) : (s.setDT b).rnd = s.rnd := rfl
@[simp] theorem State.setDT_inputs (s : State) (b : Byte) : (s.setDT b).inputs = s.inputs := rfl
@[simp] theorem State.setDT_stepCount (s : State) (b : Byte) : (s.setDT b).stepCount = s.stepCount := rfl
@[simp] theorem State.setDT_report (s : State) (b : Byte) : (s.setDT b).report = s.report := rfl
@[simp] theorem State.setDT_getV (s : State) (b : Byte) (k : RegNo) : (s.setDT b).getV k = s.getV k := rfl
@[simp] theorem State.setDT_pixel (s : State) (b : Byte) (c : Fin 64) (r : Fin 32) : (s.setDT b).pixel c r = s.pixel c r := rfl
@[simp] theorem State.setDT_readByte (s : State) (b : Byte) (k : Nat) : (s.setDT b).readByte k = s.readByte k := rfl

/-! `setST` -/

@[simp] theorem State.setST_v (s : State) (b : Byte) : (s.setST b).v = s.v := rfl
@[simp] theorem State.setST_i (s : State) (b : Byte) : (s.setST b).i = s.i := rfl
@[simp] theorem State.setST_pc (s : State) (b : Byte) : (s.setST b).pc = s.pc := rfl
@[simp] theorem State.setST_sp (s : State) (b : Byte) : (s.setST b).sp = s.sp := rfl
@[simp] theorem State.setST_stack (s : State) (b : Byte) : (s.setST b).stack = s.stack := rfl
@[simp] theorem State.setST_dt (s : State) (b : Byte) : (s.setST b).dt = s.dt := rfl
@[simp] theorem State.setST_st (s : State) (b : Byte) : (s.setST b).st = b := rfl
@[simp] theorem State.setST_key (s : State) (b : Byte) : (s.setST b).key = s.key := rfl
@[simp] theorem State.setST_fb (s : State) (b : Byte) : (s.setST b).fb = s.fb := rfl
@[simp] theorem State.setST_ir (s : State) (b : Byte) : (s.setST b).ir = s.ir := rfl
@[simp] theorem State.setST_mem (s : State) (b : Byte) : (s.setST b).mem = s.mem := rfl
@[simp] theorem State.setST_config (s : State) (b : Byte) : (s.setST b).config = s.config := rfl
@[simp] theorem State.setST_rnd (s : State) (b : Byte) : (s.setST b).rnd = s.rnd := rfl
@[simp] theorem State.setST_inputs (s : State) (b : Byte) : (s.setST b).inputs = s.inputs := rfl
@[simp] theorem State.setST_stepCount (s : State) (b : Byte) : (s.setST b).stepCount = s.stepCount := rfl
@[simp] theorem State.setST_report (s : State) (b : Byte) : (s.setST b).report = s.report := rfl
@[simp] theorem State.setST_getV (s : State) (b : Byte) (k : RegNo) : (s.setST b).getV k = s.getV k := rfl
@[simp] theorem State.setST_pixel (s : State) (b : Byte) (c : Fin 64) (r : Fin 32) : (s.setST b).pixel c r = s.pixel c r := rfl
@[simp] theorem State.setST_readByte (s : State) (b : Byte) (k : Nat) : (s.setST b).readByte k = s.readByte k := rfl

/-! `writeByte` -/

@[simp] theorem State.writeByte_v (s : State) (a : Nat) (b : Byte) : (s.writeByte a b).v = s.v := rfl
@[simp] theorem State.writeByte_i (s : State) (a : Nat) (b : Byte) : (s.writeByte a b).i = s.i := rfl
@[simp] theorem State.writeByte_pc (s : State) (a : Nat) (b : Byte) : (s.writeByte a b).pc = s.pc := rfl
@[simp] theorem State.writeByte_sp (s : State) (a : Nat) (b : Byte) : (s.writeByte a b).sp = s.sp := rfl
@[simp] theorem State.writeByte_stack (s : State) (a : Nat) (b : Byte) : (s.writeByte a b).stack = s.stack := rfl
@[simp] theorem State.writeByte_dt (s : State) (a : Nat) (b : Byte) : (s.writeByte a b).dt = s.dt := rfl
@[simp] theorem State.writeByte_st (s : State) (a : Nat) (b : Byte) : (s.writeByte a b).st = s.st := rfl
@[simp] theorem State.writeByte_key (s : State) (a : Nat) (b : Byte) : (s.writeByte a b).key = s.key := rfl
@[simp] theorem State.writeByte_fb (s : State) (a : Nat) (b : Byte) : (s.writeByte a b).fb = s.fb := rfl
@[simp] theorem State.writeByte_ir (s : State) (a : Nat) (b : Byte) : (s.writeByte a b).ir = s.ir := rfl
@[simp] theorem State.writeByte_mem (s : State) (a : Nat) (b : Byte) : (s.writeByte a b).mem = Memory.write s.config.font s.mem a b := rfl
@[simp] theorem State.writeByte_config (s : State) (a : Nat) (b : Byte) : (s.writeByte a b).config = s.config := rfl
@[simp] theorem State.writeByte_rnd (s : State) (a : Nat) (b : Byte) : (s.writeByte a b).rnd = s.rnd := rfl
@[simp] theorem State.writeByte_inputs (s : State) (a : Nat) (b : Byte) : (s.writeByte a b).inputs = s.inputs := rfl
@[simp] theorem State.writeByte_stepCount (s : State) (a : Nat) (b : Byte) : (s.writeByte a b).stepCount = s.stepCount := rfl
@[simp] theorem State.writeByte_report (s : State) (a : Nat) (b : Byte) : (s.writeByte a b).report = s.report := rfl
@[simp] theorem State.writeByte_getV (s : State) (a : Nat) (b : Byte) (k : RegNo) : (s.writeByte a b).getV k = s.getV k := rfl
@[simp] theorem State.writeByte_pixel (s : State) (a : Nat) (b : Byte) (c : Fin 64) (r : Fin 32) : (s.writeByte a b).pixel c r = s.pixel c r := rfl

/-! `setReport` -/

@[simp] theorem State.setReport_v (s : State) (r : Report) : (s.setReport r).v = s.v := rfl
@[simp] theorem State.setReport_i (s : State) (r : Report) : (s.setReport r).i = s.i := rfl
@[simp] theorem State.setReport_pc (s : State) (r : Report) : (s.setReport r).pc = s.pc := rfl
@[simp] theorem State.setReport_sp (s : State) (r : Report) : (s.setReport r).sp = s.sp := rfl
@[simp] theorem State.setReport_stack (s : State) (r : Report) : (s.setReport r).stack = s.stack := rfl
@[simp] theorem State.setReport_dt (s : State) (r : Report) : (s.setReport r).dt = s.dt := rfl
@[simp] theorem State.setReport_st (s : State) (r : Report) : (s.setReport r).st = s.st := rfl
@[simp] theorem State.setReport_key (s : State) (r : Report) : (s.setReport r).key = s.key := rfl
@[simp] theorem State.setReport_fb (s : State) (r : Report) : (s.setReport r).fb = s.fb := rfl
@[simp] theorem State.setReport_ir (s : State) (r : Report) : (s.setReport r).ir = s.ir := rfl
@[simp] theorem State.setReport_mem (s : State) (r : Report) : (s.setReport r).mem = s.mem := rfl
@[simp] theorem State.setReport_config (s : State) (r : Report) : (s.setReport r).config = s.config := rfl
@[simp] theorem State.setReport_rnd (s : State) (r : Report) : (s.setReport r).rnd = s.rnd := rfl
@[simp] theorem State.setReport_inputs (s : State) (r : Report) : (s.setReport r).inputs = s.inputs := rfl
@[simp] theorem State.setReport_stepCount (s : State) (r : Report) : (s.setReport r).stepCount = s.stepCount := rfl
@[simp] theorem State.setReport_report (s : State) (r : Report) : (s.setReport r).report = r := rfl
@[simp] theorem State.setReport_getV (s : State) (r : Report) (k : RegNo) : (s.setReport r).getV k = s.getV k := rfl
@[simp] theorem State.setReport_pixel (s : State) (p : Report) (c : Fin 64) (r : Fin 32) : (s.setReport p).pixel c r = s.pixel c r := rfl
@[simp] theorem State.setReport_readByte (s : State) (r : Report) (k : Nat) : (s.setReport r).readByte k = s.readByte k := rfl

/-! `countDown` -/

@[simp] theorem State.countDown_v (s : State) : s.countDown.v = s.v := rfl
@[simp] theorem State.countDown_i (s : State) : s.countDown.i = s.i := rfl
@[simp] theorem State.countDown_pc (s : State) : s.countDown.pc = s.pc := rfl
@[simp] theorem State.countDown_sp (s : State) : s.countDown.sp = s.sp := rfl
@[simp] theorem State.countDown_stack (s : State) : s.countDown.stack = s.stack := rfl
@[simp] theorem State.countDown_dt (s : State) : s.countDown.dt = tick s.dt := rfl
@[simp] theorem State.countDown_st (s : State) : s.countDown.st = tick s.st := rfl
@[simp] theorem State.countDown_key (s : State) : s.countDown.key = s.key := rfl
@[simp] theorem State.countDown_fb (s : State) : s.countDown.fb = s.fb := rfl
@[simp] theorem State.countDown_ir (s : State) : s.countDown.ir = s.ir := rfl
@[simp] theorem State.countDown_mem (s : State) : s.countDown.mem = s.mem := rfl
@[simp] theorem State.countDown_config (s : State) : s.countDown.config = s.config := rfl
@[simp] theorem State.countDown_rnd (s : State) : s.countDown.rnd = s.rnd := rfl
@[simp] theorem State.countDown_inputs (s : State) : s.countDown.inputs = s.inputs := rfl
@[simp] theorem State.countDown_stepCount (s : State) : s.countDown.stepCount = s.stepCount := rfl
@[simp] theorem State.countDown_report (s : State) : s.countDown.report = s.report := rfl
@[simp] theorem State.countDown_getV (s : State) (k : RegNo) : s.countDown.getV k = s.getV k := rfl
@[simp] theorem State.countDown_pixel (s : State) (c : Fin 64) (r : Fin 32) : s.countDown.pixel c r = s.pixel c r := rfl
@[simp] theorem State.countDown_readByte (s : State) (k : Nat) : s.countDown.readByte k = s.readByte k := rfl

/-! `latchInputs` -/

@[simp] theorem State.latchInputs_v (s : State) : s.latchInputs.v = s.v := rfl
@[simp] theorem State.latchInputs_i (s : State) : s.latchInputs.i = s.i := rfl
@[simp] theorem State.latchInputs_pc (s : State) : s.latchInputs.pc = s.pc := rfl
@[simp] theorem State.latchInputs_sp (s : State) : s.latchInputs.sp = s.sp := rfl
@[simp] theorem State.latchInputs_stack (s : State) : s.latchInputs.stack = s.stack := rfl
@[simp] theorem State.latchInputs_dt (s : State) : s.latchInputs.dt = s.dt := rfl
@[simp] theorem State.latchInputs_st (s : State) : s.latchInputs.st = s.st := rfl
@[simp] theorem State.latchInputs_key (s : State) : s.latchInputs.key = s.stepInput.keys := rfl
@[simp] theorem State.latchInputs_fb (s : State) : s.latchInputs.fb = s.fb := rfl
@[simp] theorem State.latchInputs_ir (s : State) : s.latchInputs.ir = s.ir := rfl
@[simp] theorem State.latchInputs_mem (s : State) : s.latchInputs.mem = s.mem := rfl
@[simp] theorem State.latchInputs_config (s : State) : s.latchInputs.config = s.config := rfl
@[simp] theorem State.latchInputs_rnd (s : State) : s.latchInputs.rnd = s.stepInput.rnd := rfl
@[simp] theorem State.latchInputs_inputs (s : State) : s.latchInputs.inputs = s.inputs.tail := rfl
@[simp] theorem State.latchInputs_stepCount (s : State) : s.latchInputs.stepCount = s.stepCount + 1 := rfl
@[simp] theorem State.latchInputs_report (s : State) : s.latchInputs.report = s.report := rfl
@[simp] theorem State.latchInputs_getV (s : State) (k : RegNo) : s.latchInputs.getV k = s.getV k := rfl
@[simp] theorem State.latchInputs_pixel (s : State) (c : Fin 64) (r : Fin 32) : s.latchInputs.pixel c r = s.pixel c r := rfl
@[simp] theorem State.latchInputs_readByte (s : State) (k : Nat) : s.latchInputs.readByte k = s.readByte k := rfl

/-! `fetch` -/

@[simp] theorem State.fetch_v (s : State) : s.fetch.v = s.v := rfl
@[simp] theorem State.fetch_i (s : State) : s.fetch.i = s.i := rfl
@[simp] theorem State.fetch_pc (s : State) : s.fetch.pc = s.pc + 2 := rfl
@[simp] theorem State.fetch_sp (s : State) : s.fetch.sp = s.sp := rfl
@[simp] theorem State.fetch_stack (s : State) : s.fetch.stack = s.stack := rfl
@[simp] theorem State.fetch_dt (s : State) : s.fetch.dt = s.dt := rfl
@[simp] theorem State.fetch_st (s : State) : s.fetch.st = s.st := rfl
@[simp] theorem State.fetch_key (s : State) : s.fetch.key = s.key := rfl
@[simp] theorem State.fetch_fb (s : State) : s.fetch.fb = s.fb := rfl
@[simp] theorem State.fetch_ir (s : State) : s.fetch.ir = s.fetchWord := rfl
@[simp] theorem State.fetch_mem (s : State) : s.fetch.mem = s.mem := rfl
@[simp] theorem State.fetch_config (s : State) : s.fetch.config = s.config := rfl
@[simp] theorem State.fetch_rnd (s : State) : s.fetch.rnd = s.rnd := rfl
@[simp] theorem State.fetch_inputs (s : State) : s.fetch.inputs = s.inputs := rfl
@[simp] theorem State.fetch_stepCount (s : State) : s.fetch.stepCount = s.stepCount := rfl
@[simp] theorem State.fetch_report (s : State) : s.fetch.report = s.report := rfl
@[simp] theorem State.fetch_getV (s : State) (k : RegNo) : s.fetch.getV k = s.getV k := rfl
@[simp] theorem State.fetch_pixel (s : State) (c : Fin 64) (r : Fin 32) : s.fetch.pixel c r = s.pixel c r := rfl
@[simp] theorem State.fetch_readByte (s : State) (k : Nat) : s.fetch.readByte k = s.readByte k := rfl

/-! `prepared`: both, and the step's inputs -/

@[simp] theorem State.prepared_v (s : State) : s.prepared.v = s.v := rfl
@[simp] theorem State.prepared_i (s : State) : s.prepared.i = s.i := rfl
@[simp] theorem State.prepared_sp (s : State) : s.prepared.sp = s.sp := rfl
@[simp] theorem State.prepared_stack (s : State) : s.prepared.stack = s.stack := rfl
@[simp] theorem State.prepared_dt (s : State) : s.prepared.dt = s.dt := rfl
@[simp] theorem State.prepared_st (s : State) : s.prepared.st = s.st := rfl
@[simp] theorem State.prepared_fb (s : State) : s.prepared.fb = s.fb := rfl
@[simp] theorem State.prepared_mem (s : State) : s.prepared.mem = s.mem := rfl
@[simp] theorem State.prepared_config (s : State) : s.prepared.config = s.config := rfl
@[simp] theorem State.prepared_report (s : State) : s.prepared.report = s.report := rfl
@[simp] theorem State.prepared_pc (s : State) : s.prepared.pc = s.pc + 2 := rfl
@[simp] theorem State.prepared_ir (s : State) : s.prepared.ir = s.fetchWord := rfl
@[simp] theorem State.prepared_key (s : State) : s.prepared.key = s.stepInput.keys := rfl
@[simp] theorem State.prepared_rnd (s : State) : s.prepared.rnd = s.stepInput.rnd := rfl
@[simp] theorem State.prepared_inputs (s : State) : s.prepared.inputs = s.inputs.tail := rfl
@[simp] theorem State.prepared_stepCount (s : State) : s.prepared.stepCount = s.stepCount + 1 := rfl
@[simp] theorem State.prepared_getV (s : State) (k : RegNo) : s.prepared.getV k = s.getV k := rfl
@[simp] theorem State.prepared_pixel (s : State) (c : Fin 64) (r : Fin 32) : s.prepared.pixel c r = s.pixel c r := rfl
@[simp] theorem State.prepared_readByte (s : State) (k : Nat) : s.prepared.readByte k = s.readByte k := rfl

/-- In the execute phase PC - 2 is the PC the step started with (R103, R221). -/
@[simp] theorem State.prepared_instrAddress (s : State) : s.prepared.instrAddress = s.pc := by
  rw [State.instrAddress, State.prepared_pc, BitVec.add_sub_cancel]

end Sys2Proof.Machine
end

