-- ==== Sys2Proof/Laws/Display.lean ====
section
/-! SUPPORT. The laws of the framebuffer and the closed form of a sprite draw: which pixels it toggles
and when it records a collision (R172, R173). -/

namespace Sys2Proof.Machine

theorem Framebuffer.pixel_flip (fb : Framebuffer) (c k : Fin 64) (r q : Fin 32) :
    Framebuffer.pixel (Framebuffer.flip fb c r) k q =
      (Framebuffer.pixel fb k q ^^ (decide (k = c) && decide (q = r))) := by
  by_cases hq : q = r
  · subst hq
    by_cases hk : k = c
    · subst hk
      simp [Framebuffer.pixel, Framebuffer.flip]
    · have : c.val ≠ k.val := fun e => hk (Fin.ext e.symm)
      simp [Framebuffer.pixel, Framebuffer.flip, hk, this]
  · have : r.val ≠ q.val := fun e => hq (Fin.ext e.symm)
    simp [Framebuffer.pixel, Framebuffer.flip, hq, this]

@[simp] theorem Framebuffer.pixel_clear (c : Fin 64) (r : Fin 32) :
    Framebuffer.pixel Framebuffer.clear c r = false := by
  simp [Framebuffer.pixel, Framebuffer.clear]

/-- One of the first `m` columns of the sprite byte `b`, drawn from column `sx` in row `r`, is a set
bit that lands on pixel (k, q). -/
def ByteCovers (sx r : Nat) (b : Byte) (m : Nat) (k : Fin 64) (q : Fin 32) : Prop :=
  ∃ col, col < m ∧ spriteBit b col = true ∧ k.val = (sx + col) % 64 ∧ q.val = r % 32

/-- A set bit of the sprite rows, drawn from (sx, sy), lands on pixel (k, q). -/
def RowsCover (sx sy : Nat) (rows : List Byte) (k : Fin 64) (q : Fin 32) : Prop :=
  ∃ row, row < rows.length ∧ ByteCovers sx (sy + row) (rows.getD row 0) 8 k q

/-- What a drawing does to a set of pixels, each toggled at most once: `d'` is `d` with exactly those
pixels toggled, and a hit is recorded when one of them was on. -/
structure Toggles (covers : Fin 64 → Fin 32 → Prop) (d d' : Drawing) : Prop where
  pixel_on : ∀ k q, covers k q → Framebuffer.pixel d'.1 k q = !Framebuffer.pixel d.1 k q
  pixel_off : ∀ k q, ¬covers k q → Framebuffer.pixel d'.1 k q = Framebuffer.pixel d.1 k q
  hit : d'.2 = true ↔ d.2 = true ∨ ∃ k q, covers k q ∧ Framebuffer.pixel d.1 k q = true

theorem Toggles.congr {p q : Fin 64 → Fin 32 → Prop} {d d' : Drawing} (h : Toggles p d d')
    (hpq : ∀ k r, p k r ↔ q k r) : Toggles q d d' := by
  obtain rfl : p = q := funext fun k => funext fun r => propext (hpq k r)
  exact h

theorem Toggles.nothing (d : Drawing) : Toggles (fun _ _ => False) d d :=
  ⟨fun _ _ h => h.elim, fun _ _ _ => rfl, by simp⟩

/-- Two drawings in a row that touch different pixels. -/
theorem Toggles.trans {p q : Fin 64 → Fin 32 → Prop} {d d' d'' : Drawing} (h : Toggles p d d')
    (h' : Toggles q d' d'') (hdisj : ∀ k r, p k r → ¬q k r) :
    Toggles (fun k r => p k r ∨ q k r) d d'' where
  pixel_on k r hpq := by
    rcases hpq with hp | hq
    · rw [h'.pixel_off _ _ (hdisj k r hp), h.pixel_on _ _ hp]
    · rw [h'.pixel_on _ _ hq, h.pixel_off _ _ fun hp => hdisj k r hp hq]
  pixel_off k r hpq := by
    rw [h'.pixel_off _ _ fun hq => hpq (.inr hq), h.pixel_off _ _ fun hp => hpq (.inl hp)]
  hit := by
    rw [h'.hit, h.hit]
    constructor
    · rintro ((hd | ⟨k, r, hp, hon⟩) | ⟨k, r, hq, hon⟩)
      · exact .inl hd
      · exact .inr ⟨k, r, .inl hp, hon⟩
      · rw [h.pixel_off _ _ fun hp => hdisj k r hp hq] at hon
        exact .inr ⟨k, r, .inr hq, hon⟩
    · rintro (hd | ⟨k, r, hp | hq, hon⟩)
      · exact .inl (.inl hd)
      · exact .inl (.inr ⟨k, r, hp, hon⟩)
      · refine .inr ⟨k, r, hq, ?_⟩
        rw [h.pixel_off _ _ fun hp => hdisj k r hp hq]
        exact hon

theorem plotBit_toggles (c r : Nat) (bit : Bool) (d : Drawing) :
    Toggles (fun k q => bit = true ∧ k.val = c % 64 ∧ q.val = r % 32) d (plotBit c r bit d) := by
  cases bit with
  | false =>
    exact (Toggles.nothing d).congr (by simp)
  | true =>
    have key : ∀ (k : Fin 64) (q : Fin 32),
        (k.val = c % 64 ∧ q.val = r % 32) ↔ (k = Fin.ofNat 64 c ∧ q = Fin.ofNat 32 r) := by
      intro k q
      simp [Fin.ext_iff, Fin.ofNat]
    refine ⟨fun k q h => ?_, fun k q h => ?_, ?_⟩
    · obtain ⟨rfl, rfl⟩ := (key k q).1 h.2
      simp [plotBit, Framebuffer.pixel_flip]
    · have : ¬(k = Fin.ofNat 64 c ∧ q = Fin.ofNat 32 r) := fun e => h ⟨rfl, (key k q).2 e⟩
      simp only [plotBit, if_true, Framebuffer.pixel_flip]
      rw [← Bool.decide_and, decide_eq_false this, Bool.xor_false]
    · simp only [plotBit, if_true, Bool.or_eq_true, true_and, key]
      constructor
      · rintro (h | h)
        · exact .inl h
        · exact .inr ⟨_, _, ⟨rfl, rfl⟩, h⟩
      · rintro (h | ⟨k, q, ⟨rfl, rfl⟩, h⟩)
        · exact .inl h
        · exact .inr h

theorem plotColumns_toggles (sx r : Nat) (b : Byte) (d : Drawing) (m : Nat) (hm : m ≤ 8) :
    Toggles (ByteCovers sx r b m) d
      ((List.range m).foldl (fun d col => plotBit (sx + col) r (spriteBit b col) d) d) := by
  induction m with
  | zero => exact (Toggles.nothing d).congr (by simp [ByteCovers])
  | succ m ih =>
    rw [List.range_succ, List.foldl_append]
    refine ((ih (by omega)).trans (plotBit_toggles _ _ _ _) ?_).congr ?_
    · rintro k q ⟨col, hcol, -, hk, -⟩ ⟨-, hk', -⟩
      omega
    · intro k q
      constructor
      · rintro (⟨col, hcol, h⟩ | h)
        · exact ⟨col, by omega, h⟩
        · exact ⟨m, by omega, h⟩
      · rintro ⟨col, hcol, h⟩
        by_cases hcm : col = m
        · subst hcm
          exact .inr h
        · exact .inl ⟨col, by omega, h⟩

theorem plotByte_toggles (sx r : Nat) (b : Byte) (d : Drawing) :
    Toggles (ByteCovers sx r b 8) d (plotByte sx r b d) :=
  plotColumns_toggles sx r b d 8 (Nat.le_refl 8)

/-- Drawing sprite rows toggles exactly the pixels under the sprite's set bits, and records a hit
exactly when one of them was on. -/
theorem plotRows_toggles (sx sy : Nat) (rows : List Byte) (d : Drawing) (hrows : rows.length ≤ 32) :
    Toggles (RowsCover sx sy rows) d (plotRows sx sy rows d) := by
  induction rows generalizing sy d with
  | nil => exact (Toggles.nothing d).congr (by simp [RowsCover])
  | cons b rest ih =>
    rw [List.length_cons] at hrows
    refine ((plotByte_toggles sx sy b d).trans (ih (sy + 1) _ (by omega)) ?_).congr ?_
    · rintro k q ⟨_, _, _, _, hq⟩ ⟨row, hrow, _, _, _, _, hq'⟩
      omega
    · intro k q
      constructor
      · rintro (h | ⟨row, hrow, h⟩)
        · exact ⟨0, by simp, by simpa using h⟩
        · refine ⟨row + 1, by simpa using hrow, ?_⟩
          rw [show sy + (row + 1) = sy + 1 + row by omega]
          simpa using h
      · rintro ⟨row, hrow, h⟩
        cases row with
        | zero => exact .inl (by simpa using h)
        | succ row =>
          refine .inr ⟨row, by simpa using hrow, ?_⟩
          rw [show sy + (row + 1) = sy + 1 + row by omega] at h
          simpa using h

end Sys2Proof.Machine
end

