-- ==== Sys2Proof/Laws/Encoding.lean ====
section
/-! SUPPORT. The fields of an encoded word, format by format (30_encoding.md R76, R77), and a word as
its fields put together again. Everything goes through the values of words as numbers. -/

namespace Sys2Proof

/-! Words as numbers. -/

theorem toNat_append {m n : Nat} (a : BitVec m) (b : BitVec n) :
    (a ++ b).toNat = a.toNat * 2 ^ n + b.toNat := by
  rw [BitVec.toNat_append, ← Nat.shiftLeft_add_eq_or_of_lt b.isLt, Nat.shiftLeft_eq]

theorem toNat_extract {w : Nat} (x : BitVec w) (lo len : Nat) :
    (x.extractLsb' lo len).toNat = x.toNat / 2 ^ lo % 2 ^ len := by
  rw [BitVec.extractLsb'_toNat, Nat.shiftRight_eq_div_pow]

theorem formatNNN_toNat (c : BitVec 4) (nnn : Addr12) :
    (formatNNN c nnn).toNat = c.toNat * 4096 + nnn.toNat :=
  toNat_append c nnn

theorem formatXNN_toNat (c : BitVec 4) (x : RegNo) (nn : Byte) :
    (formatXNN c x nn).toNat = c.toNat * 4096 + (x.val * 256 + nn.toNat) :=
  (toNat_append c _).trans (congrArg (c.toNat * 2 ^ 12 + ·) (toNat_append (BitVec.ofFin (w := 4) x) nn))

theorem formatXYN_toNat (c : BitVec 4) (x y : RegNo) (n : BitVec 4) :
    (formatXYN c x y n).toNat = c.toNat * 4096 + (x.val * 256 + (y.val * 16 + n.toNat)) :=
  (toNat_append c _).trans (congrArg (c.toNat * 2 ^ 12 + ·)
    ((toNat_append (BitVec.ofFin (w := 4) x) _).trans (congrArg (x.val * 2 ^ 8 + ·)
      (toNat_append (BitVec.ofFin (w := 4) y) n))))

theorem joinBytes_toNat (hi lo : Byte) : (joinBytes hi lo).toNat = hi.toNat * 256 + lo.toNat :=
  toNat_append hi lo

theorem fieldsOf_toNat (w : Word) :
    (fieldsOf w).opClass.toNat = w.toNat / 4096 ∧ (fieldsOf w).x.toNat = w.toNat / 256 % 16 ∧
    (fieldsOf w).y.toNat = w.toNat / 16 % 16 ∧ (fieldsOf w).n.toNat = w.toNat % 16 ∧
    (fieldsOf w).nn.toNat = w.toNat % 256 ∧ (fieldsOf w).nnn.toNat = w.toNat % 4096 := by
  have := w.isLt
  simp only [fieldsOf, toNat_extract]
  omega

/-! The fields of an encoded word. -/

theorem fieldsOf_formatNNN (c : BitVec 4) (nnn : Addr12) :
    (fieldsOf (formatNNN c nnn)).opClass = c ∧ (fieldsOf (formatNNN c nnn)).nnn = nnn := by
  have h := fieldsOf_toNat (formatNNN c nnn)
  rw [formatNNN_toNat] at h
  have := nnn.isLt
  exact ⟨BitVec.eq_of_toNat_eq (by omega), BitVec.eq_of_toNat_eq (by omega)⟩

theorem fieldsOf_formatXNN (c : BitVec 4) (x : RegNo) (nn : Byte) :
    (fieldsOf (formatXNN c x nn)).opClass = c ∧ (fieldsOf (formatXNN c x nn)).x.toFin = x ∧
      (fieldsOf (formatXNN c x nn)).nn = nn := by
  have h := fieldsOf_toNat (formatXNN c x nn)
  rw [formatXNN_toNat] at h
  have := nn.isLt
  have := x.isLt
  exact ⟨BitVec.eq_of_toNat_eq (by omega), Fin.ext (by rw [BitVec.val_toFin]; omega),
    BitVec.eq_of_toNat_eq (by omega)⟩

theorem fieldsOf_formatXYN (c : BitVec 4) (x y : RegNo) (n : BitVec 4) :
    (fieldsOf (formatXYN c x y n)).opClass = c ∧ (fieldsOf (formatXYN c x y n)).x.toFin = x ∧
      (fieldsOf (formatXYN c x y n)).y.toFin = y ∧ (fieldsOf (formatXYN c x y n)).n = n := by
  have h := fieldsOf_toNat (formatXYN c x y n)
  rw [formatXYN_toNat] at h
  have := n.isLt
  have := x.isLt
  have := y.isLt
  exact ⟨BitVec.eq_of_toNat_eq (by omega), Fin.ext (by rw [BitVec.val_toFin]; omega),
    Fin.ext (by rw [BitVec.val_toFin]; omega), BitVec.eq_of_toNat_eq (by omega)⟩

/-- Every word's fields are well formed: `nn` is `y:n` and `nnn` is `x:y:n` (R76). -/
theorem fieldsOf_wellFormed (w : Word) : (fieldsOf w).wellFormed = true := by
  have h := fieldsOf_toNat w
  simp only [Fields.wellFormed, Fields.nnAgrees, Fields.nnnAgrees, Bool.and_eq_true, beq_iff_eq]
  constructor
  · apply BitVec.eq_of_toNat_eq
    have := toNat_append (fieldsOf w).y (fieldsOf w).n
    omega
  · apply BitVec.eq_of_toNat_eq
    have h1 := toNat_append (fieldsOf w).y (fieldsOf w).n
    have h2 := toNat_append (fieldsOf w).x ((fieldsOf w).y ++ (fieldsOf w).n)
    omega

/-! A word put together again from its fields. -/

theorem formatNNN_fieldsOf (w : Word) : formatNNN (fieldsOf w).opClass (fieldsOf w).nnn = w := by
  have h := fieldsOf_toNat w
  apply BitVec.eq_of_toNat_eq
  rw [formatNNN_toNat]
  omega

theorem formatXNN_fieldsOf (w : Word) :
    formatXNN (fieldsOf w).opClass (fieldsOf w).x.toFin (fieldsOf w).nn = w := by
  have h := fieldsOf_toNat w
  apply BitVec.eq_of_toNat_eq
  rw [formatXNN_toNat, BitVec.val_toFin]
  omega

theorem formatXYN_fieldsOf (w : Word) :
    formatXYN (fieldsOf w).opClass (fieldsOf w).x.toFin (fieldsOf w).y.toFin (fieldsOf w).n = w := by
  have h := fieldsOf_toNat w
  apply BitVec.eq_of_toNat_eq
  rw [formatXYN_toNat, BitVec.val_toFin, BitVec.val_toFin]
  omega

/-- The bytes of a word in memory order join to the word again (R52). -/
theorem joinBytes_hiByte_loByte (w : Word) : joinBytes (hiByte w) (loByte w) = w := by
  have := w.isLt
  apply BitVec.eq_of_toNat_eq
  rw [joinBytes_toNat, hiByte, loByte, toNat_extract, toNat_extract]
  omega

/-! What decoding to an instruction, or to none, says of the dispatch. -/

theorem decode_eq_instr (w : Word) (i : Instr) :
    decode w = .instr i ↔ dispatch (fieldsOf w) = some i := by
  unfold decode
  split <;> simp_all

theorem decode_eq_unknown (w u : Word) :
    decode w = .unknown u ↔ dispatch (fieldsOf w) = none ∧ w = u := by
  unfold decode
  split <;> simp_all

end Sys2Proof
end

