-- ==== Sys2Proof/Laws/Memory.lean ====
section
/-! SUPPORT. The laws of memory: read after write, the canonical form kept by every operation, and
the block operations over them. -/

namespace Sys2Proof.Machine

/-! Lookup. -/

theorem Memory.lookup_insert (m : Memory) (a b : Nat) (v : Byte) :
    (m.insert a v).lookup b = if b = a then some v else m.lookup b := by
  induction m with
  | nil => simp [Memory.insert, Memory.lookup, eq_comm]
  | cons c rest ih =>
    obtain ⟨k, w⟩ := c
    simp only [Memory.insert]
    split
    · simp [Memory.lookup, eq_comm]
    · split
      · subst_vars
        by_cases hb : b = k <;> simp [Memory.lookup, hb, eq_comm]
      · by_cases hk : k = b
        · subst hk
          have : k ≠ a := fun h => by omega
          simp [Memory.lookup, this]
        · simp [Memory.lookup, hk, ih]

theorem Memory.lookup_none_of_lt (m : Memory) (a : Nat) (h : ∀ c ∈ m, a < c.1) :
    m.lookup a = none := by
  induction m with
  | nil => rfl
  | cons c rest ih =>
    obtain ⟨k, w⟩ := c
    have hk : a < k := h (k, w) (by simp)
    have hrest := ih fun c hc => h c (by simp [hc])
    simp [Memory.lookup, hrest, show k ≠ a by omega]

theorem Memory.lookup_erase (m : Memory) (a b : Nat) (h : m.Pairwise fun c d => c.1 < d.1) :
    (m.erase a).lookup b = if b = a then none else m.lookup b := by
  induction m with
  | nil => simp [Memory.erase, Memory.lookup]
  | cons c rest ih =>
    obtain ⟨k, w⟩ := c
    rw [List.pairwise_cons] at h
    simp only [Memory.erase]
    split
    · subst_vars
      by_cases hb : b = k
      · subst hb
        simp [Memory.lookup_none_of_lt rest b fun c hc => h.1 c hc]
      · simp [Memory.lookup, hb, Ne.symm hb]
    · by_cases hk : k = b
      · subst hk
        simp [Memory.lookup, *]
      · simp [Memory.lookup, hk, ih h.2]

/-! Read after write (R58, R62). -/

theorem Memory.read_write (font : Vector Byte fontSize) (m : Memory) (a b : Nat) (v : Byte)
    (h : m.wf font) :
    Memory.read font (m.write font a v) b = if b = a then v else Memory.read font m b := by
  unfold Memory.read Memory.write
  split
  · rename_i hv
    rw [Memory.lookup_erase _ _ _ h.1]
    by_cases hb : b = a <;> simp [hb, hv]
  · rw [Memory.lookup_insert]
    by_cases hb : b = a <;> simp [hb]

/-! The canonical form. -/

theorem Memory.mem_insert (m : Memory) (a : Nat) (v : Byte) (c : Host.Cell)
    (h : c ∈ m.insert a v) : c = (a, v) ∨ c ∈ m := by
  induction m with
  | nil => simpa [Memory.insert] using h
  | cons d rest ih =>
    obtain ⟨k, w⟩ := d
    simp only [Memory.insert] at h
    split at h
    · simpa using h
    · split at h
      · rcases List.mem_cons.1 h with h | h
        · exact .inl h
        · exact .inr (by simp [h])
      · rcases List.mem_cons.1 h with h | h
        · exact .inr (by simp [h])
        · rcases ih h with h | h
          · exact .inl h
          · exact .inr (by simp [h])

theorem Memory.mem_erase (m : Memory) (a : Nat) (c : Host.Cell) (h : c ∈ m.erase a) : c ∈ m := by
  induction m with
  | nil => simp [Memory.erase] at h
  | cons d rest ih =>
    obtain ⟨k, w⟩ := d
    simp only [Memory.erase] at h
    split at h
    · simp [h]
    · rcases List.mem_cons.1 h with h | h
      · simp [h]
      · simp [ih h]

theorem Memory.sorted_insert (m : Memory) (a : Nat) (v : Byte)
    (h : m.Pairwise fun c d => c.1 < d.1) : (m.insert a v).Pairwise fun c d => c.1 < d.1 := by
  induction m with
  | nil => simp [Memory.insert]
  | cons d rest ih =>
    obtain ⟨k, w⟩ := d
    rw [List.pairwise_cons] at h
    simp only [Memory.insert]
    split
    · rename_i hak
      refine List.pairwise_cons.2 ⟨fun c hc => ?_, List.pairwise_cons.2 h⟩
      rcases List.mem_cons.1 hc with rfl | hc
      · exact hak
      · exact Nat.lt_trans hak (h.1 c hc)
    · split
      · subst_vars
        exact List.pairwise_cons.2 ⟨fun c hc => h.1 c hc, h.2⟩
      · refine List.pairwise_cons.2 ⟨fun c hc => ?_, ih h.2⟩
        rcases Memory.mem_insert _ _ _ _ hc with rfl | hc
        · show k < a
          omega
        · exact h.1 c hc

theorem Memory.sorted_erase (m : Memory) (a : Nat)
    (h : m.Pairwise fun c d => c.1 < d.1) : (m.erase a).Pairwise fun c d => c.1 < d.1 := by
  induction m with
  | nil => simp [Memory.erase]
  | cons d rest ih =>
    obtain ⟨k, w⟩ := d
    rw [List.pairwise_cons] at h
    simp only [Memory.erase]
    split
    · exact h.2
    · exact List.pairwise_cons.2 ⟨fun c hc => h.1 c (Memory.mem_erase _ _ _ hc), ih h.2⟩

theorem Memory.wf_nil (font : Vector Byte fontSize) : Memory.wf font [] := by
  simp [Memory.wf]

theorem Memory.wf_write (font : Vector Byte fontSize) (m : Memory) (a : Nat) (v : Byte)
    (ha : a < memSize) (h : m.wf font) : (m.write font a v).wf font := by
  unfold Memory.write
  split
  · exact ⟨Memory.sorted_erase _ _ h.1, fun c hc => h.2 c (Memory.mem_erase _ _ _ hc)⟩
  · rename_i hv
    refine ⟨Memory.sorted_insert _ _ _ h.1, fun c hc => ?_⟩
    rcases Memory.mem_insert _ _ _ _ hc with rfl | hc
    · exact ⟨ha, hv⟩
    · exact h.2 c hc

/-! The same over states. -/

theorem State.readByte_writeByte (s : State) (a b : Nat) (v : Byte)
    (h : s.mem.wf s.config.font) :
    (s.writeByte a v).readByte b = if b = a then v else s.readByte b :=
  Memory.read_write _ _ _ _ _ h

/-- What a block of writes changes: memory, and nothing else. -/
theorem State.writeBytes_eq (s : State) (a : Nat) (l : List Byte) :
    s.writeBytes a l = { s with mem := (s.writeBytes a l).mem } := by
  induction l generalizing s a with
  | nil => rfl
  | cons b rest ih => rw [State.writeBytes, ih]; rfl

theorem State.writeBytes_wf (s : State) (a : Nat) (l : List Byte) (hl : a + l.length ≤ memSize)
    (h : s.mem.wf s.config.font) : (s.writeBytes a l).mem.wf s.config.font := by
  induction l generalizing s a with
  | nil => exact h
  | cons b rest ih =>
    rw [List.length_cons] at hl
    exact ih (s.writeByte a b) (a + 1) (by omega) (Memory.wf_write _ _ _ _ (by omega) h)

/-- Reading after a block of writes: the written bytes inside the block, the old bytes outside. -/
theorem State.readByte_writeBytes (s : State) (a b : Nat) (l : List Byte)
    (hl : a + l.length ≤ memSize) (h : s.mem.wf s.config.font) :
    (s.writeBytes a l).readByte b =
      if a ≤ b ∧ b < a + l.length then l.getD (b - a) 0 else s.readByte b := by
  induction l generalizing s a with
  | nil =>
    have : ¬(a ≤ b ∧ b < a + ([] : List Byte).length) := by simp
    rw [if_neg this]
    rfl
  | cons v rest ih =>
    rw [List.length_cons] at hl ⊢
    rw [State.writeBytes, ih _ _ (by omega) (Memory.wf_write _ _ _ _ (by omega) h),
      State.readByte_writeByte _ _ _ _ h]
    by_cases hb : b = a
    · subst hb
      simp
    · by_cases hin : a + 1 ≤ b ∧ b < a + 1 + rest.length
      · rw [if_pos hin, if_pos (by omega), show b - a = (b - (a + 1)) + 1 by omega]
        simp
      · rw [if_neg hin, if_neg hb, if_neg (by omega)]

@[simp] theorem State.readBytes_length (s : State) (a len : Nat) :
    (s.readBytes a len).length = len := by
  simp [State.readBytes]

theorem State.readBytes_getD (s : State) (a len k : Nat) (d : Byte) :
    (s.readBytes a len).getD k d = if k < len then s.readByte (a + k) else d := by
  by_cases h : k < len <;> simp [State.readBytes, List.getD, h]

theorem blockExists_iff (base : Word) (len : Nat) :
    blockExists base len = true ↔ len = 0 ∨ base.toNat + len ≤ memSize := by
  simp only [blockExists, addressExists, Bool.or_eq_true, decide_eq_true_eq]
  omega

/-- An instruction that needs a block runs when the block exists. -/
theorem State.withBlock_of_exists (s : State) (len : Nat) (run : Result)
    (h : len = 0 ∨ s.i.toNat + len ≤ memSize) : s.withBlock len run = run := by
  rw [State.withBlock, if_pos ((blockExists_iff _ _).2 h)]

/-- An instruction that needs a block ends the step when the block does not exist. -/
theorem State.withBlock_of_missing (s : State) (len : Nat) (run : Result)
    (h : ¬(len = 0 ∨ s.i.toNat + len ≤ memSize)) :
    s.withBlock len run = .fault (.memoryOutOfRange s.i) := by
  rw [State.withBlock, if_neg (mt (blockExists_iff _ _).1 h), raise]

end Sys2Proof.Machine
end

