-- ==== Sys2Proof/Laws/Registers.lean ====
section
/-! SUPPORT. The laws of the register file, the call stack and the operand forms. -/

namespace Sys2Proof.Machine

theorem State.getV_setV (s : State) (x k : RegNo) (b : Byte) :
    (s.setV x b).getV k = if k = x then b else s.getV k := by
  by_cases h : k = x
  · subst h
    simp [State.getV]
  · have : x.val ≠ k.val := fun e => h (Fin.ext e.symm)
    simp [State.getV, h, this]

@[simp] theorem State.getV_setV_same (s : State) (x : RegNo) (b : Byte) :
    (s.setV x b).getV x = b := by
  simp [State.getV_setV]

theorem State.getV_setV_ne (s : State) (x k : RegNo) (b : Byte) (h : k ≠ x) :
    (s.setV x b).getV k = s.getV k := by
  simp [State.getV_setV, h]

theorem State.getV_setVBlock (s : State) (l : List Byte) (k : RegNo) :
    (s.setVBlock l).getV k = l.getD k.val (s.getV k) := by
  simp [State.getV]

/-- What a push does: it answers exactly when SP < 16, stores in slot SP and counts it. -/
theorem State.push_eq_some (s t : State) (w : Word) (h : s.push w = some t) :
    s.sp.val < 16 ∧ t.sp.val = s.sp.val + 1 ∧ t = { s with stack := t.stack, sp := t.sp } ∧
      ∀ k : Fin 16, t.stack[k] = if k.val = s.sp.val then w else s.stack[k] := by
  unfold State.push at h
  split at h
  · rename_i hlt
    cases h
    refine ⟨hlt, rfl, rfl, fun k => ?_⟩
    by_cases hk : k.val = s.sp.val
    · simp [hk]
    · simp [hk, Ne.symm hk]
  · cases h

theorem State.push_eq_none (s : State) (w : Word) : s.push w = none ↔ s.sp.val = 16 := by
  unfold State.push
  split <;> simp <;> omega

/-- What a pop does: it answers exactly when SP > 0, and leaves the slots as they are. -/
theorem State.pop_eq_some (s t : State) (w : Word) (h : s.pop = some (w, t)) :
    0 < s.sp.val ∧ t.sp.val = s.sp.val - 1 ∧ t = { s with sp := t.sp } ∧
      ∀ k : Fin 16, k.val + 1 = s.sp.val → w = s.stack[k] := by
  unfold State.pop at h
  split at h
  · rename_i hpos
    simp only [Option.some.injEq, Prod.mk.injEq] at h
    obtain ⟨rfl, rfl⟩ := h
    refine ⟨hpos, rfl, rfl, fun k hk => ?_⟩
    have : k.val = s.sp.val - 1 := by omega
    simp [this]
  · cases h

theorem State.pop_eq_none (s : State) : s.pop = none ↔ s.sp.val = 0 := by
  unfold State.pop
  split <;> simp <;> omega

theorem keyNumber_eq_some (b : Byte) (k : Fin 16) : keyNumber b = some k ↔ b.toNat = k.val := by
  unfold keyNumber
  split
  · simp [Fin.ext_iff]
  · simp only [reduceCtorEq, false_iff]
    omega

theorem keyNumber_eq_none (b : Byte) : keyNumber b = none ↔ 15 < b.toNat := by
  unfold keyNumber
  split <;> simp <;> omega

/-- FX0A's scan finds the lowest pressed key. -/
theorem firstPressed_eq_some (keys : Keys) (k : Fin 16) :
    firstPressed keys = some k ↔ keys[k] = true ∧ ∀ j : Fin 16, j < k → keys[j] = false := by
  unfold firstPressed
  constructor
  · intro h
    refine ⟨by simpa using List.find?_some h, fun j hj => ?_⟩
    obtain ⟨_, as, bs, hl, hall⟩ := List.find?_eq_some_iff_append.1 h
    have hmem : j ∈ as ++ k :: bs := hl ▸ List.mem_finRange j
    have hsort : (as ++ k :: bs).Pairwise (· < ·) := hl ▸ List.pairwise_lt_finRange 16
    rcases List.mem_append.1 hmem with hj' | hj'
    · simpa using hall j hj'
    · rcases List.mem_cons.1 hj' with rfl | hj'
      · omega
      · have := (List.pairwise_cons.1 (List.pairwise_append.1 hsort).2.1).1 j hj'
        omega
  · rintro ⟨hk, hlow⟩
    cases hf : (List.finRange 16).find? fun k => keys[k] with
    | none =>
      have := List.find?_eq_none.1 hf k (List.mem_finRange k)
      simp_all
    | some j =>
      have hj : keys[j] = true := by simpa using List.find?_some hf
      have h1 : ¬ j < k := fun h => by simp [hlow j h] at hj
      have h2 : ¬ k < j := fun h => by
        obtain ⟨_, as, bs, hl, hall⟩ := List.find?_eq_some_iff_append.1 hf
        have hmem : k ∈ as ++ j :: bs := hl ▸ List.mem_finRange k
        have hsort : (as ++ j :: bs).Pairwise (· < ·) := hl ▸ List.pairwise_lt_finRange 16
        rcases List.mem_append.1 hmem with hk' | hk'
        · have := hall k hk'
          simp_all
        · rcases List.mem_cons.1 hk' with rfl | hk'
          · omega
          · have := (List.pairwise_cons.1 (List.pairwise_append.1 hsort).2.1).1 k hk'
            omega
      congr 1
      omega

theorem firstPressed_eq_none (keys : Keys) :
    firstPressed keys = none ↔ ∀ k : Fin 16, keys[k] = false := by
  simp [firstPressed]

/-- BNNN's target as a natural sum (R124). -/
theorem State.offsetTarget_toNat (s : State) (nnn : Addr12) :
    (s.offsetTarget nnn).toNat = nnn.toNat + (s.getV 0).toNat := by
  simp only [State.offsetTarget, zextAddr, zextByte, BitVec.toNat_add, BitVec.toNat_setWidth]
  omega

/-- FX29's address as a natural (R203). -/
theorem glyphAddress_toNat (b : Byte) : (glyphAddress b).toNat = fontBase + b.toNat * 5 := by
  simp only [glyphAddress, BitVec.toNat_ofNat, fontBase]
  omega

theorem zextAddr_toNat (nnn : Addr12) : (zextAddr nnn).toNat = nnn.toNat := by
  simp only [zextAddr, BitVec.toNat_setWidth]
  omega

@[simp] theorem State.regBlock_length (s : State) (x : RegNo) :
    (s.regBlock x).length = x.val + 1 := by
  simp only [State.regBlock, List.length_take, Vector.length_toList]
  omega

/-- The k-th byte of the register block is V[k] (R205). -/
theorem State.regBlock_getD (s : State) (x : RegNo) (k : Nat) (hk : k < x.val + 1) (d : Byte) :
    (s.regBlock x).getD k d = s.getV ⟨k, by omega⟩ := by
  simp [State.regBlock, State.getV, List.getD, hk]

end Sys2Proof.Machine
end

