-- ==== Sys2Proof/Laws/Step.lean ====
section
/-! SUPPORT. What one instruction and one step can do: for each instruction with a condition when it
completes and when not, and one inversion lemma for the step. -/

namespace Sys2Proof.Machine

/-! The parts of a step (R101-R107). -/

theorem State.fetchInvalid_iff (s : State) : s.fetchInvalid = true ↔ memSize ≤ s.pc.toNat + 1 := by
  simp [State.fetchInvalid]

theorem tick_toNat (b : Byte) : (tick b).toNat = b.toNat - 1 := by
  unfold tick
  split
  · bv_omega
  · rename_i h
    have : b = 0 := by bv_omega
    simp [this]

theorem finishStep_eq_next (o : Result) (u : State) :
    finishStep o = .next u ↔ ∃ t, o = .next t ∧ u = t.countDown.setReport .ok := by
  cases o <;> simp [finishStep, eq_comm]

theorem finishStep_eq_fault (o : Result) (f : Fault) : finishStep o = .fault f ↔ o = .fault f := by
  cases o <;> simp [finishStep]

/-- A completed step decoded an instruction that completed, or an unknown word. -/
theorem step_cases (s u : State) (h : step s = .next u) :
    s.fetchInvalid = false ∧
    ((∃ i t, decode s.prepared.ir = .instr i ∧ exec i s.prepared = .next t ∧
        u = t.countDown.setReport .ok) ∨
     (∃ w, decode s.prepared.ir = .unknown w ∧ u = s.prepared.unknownStep w)) := by
  unfold step at h
  split at h
  · cases h
  · rename_i hv
    refine ⟨by simpa using hv, ?_⟩
    split at h
    · rename_i i hi
      obtain ⟨t, ht, hu⟩ := (finishStep_eq_next _ _).1 h
      exact .inl ⟨i, t, hi, ht, hu⟩
    · rename_i w hw
      exact .inr ⟨w, hw, by cases h; rfl⟩

/-- A fatal step failed its fetch, or decoded an instruction that raised the condition. -/
theorem step_fault_cases (s : State) (f : Fault) (h : step s = .fault f) :
    (s.fetchInvalid = true ∧ f = .invalidFetch s.pc) ∨
    (s.fetchInvalid = false ∧ ∃ i, decode s.prepared.ir = .instr i ∧ exec i s.prepared = .fault f) := by
  unfold step at h
  split at h
  · rename_i hv
    exact .inl ⟨hv, by cases h; rfl⟩
  · rename_i hv
    split at h
    · rename_i i hi
      exact .inr ⟨by simpa using hv, i, hi, (finishStep_eq_fault _ _).1 h⟩
    · cases h

theorem step_of_decode (s : State) (i : Instr) (hv : s.pc.toNat + 1 < memSize)
    (hd : decode s.fetchWord = .instr i) : step s = finishStep (exec i s.prepared) := by
  have hf : s.fetchInvalid = false := by simpa [State.fetchInvalid] using hv
  simp [step, hf, hd]

theorem step_of_unknown (s : State) (w : Word) (hv : s.pc.toNat + 1 < memSize)
    (hd : decode s.fetchWord = .unknown w) : step s = .next (s.prepared.unknownStep w) := by
  have hf : s.fetchInvalid = false := by simpa [State.fetchInvalid] using hv
  simp [step, hf, hd]

/-! The instructions that can end in a fatal condition: the two cases of each. -/

theorem exec00EE_cases (s : State) :
    (s.sp.val = 0 ∧ exec .op00EE s = .fault (.stackUnderflow s.instrAddress)) ∨
    (0 < s.sp.val ∧ ∃ w t, s.pop = some (w, t) ∧ exec .op00EE s = .next (t.setPc w)) := by
  cases h : s.pop with
  | none => exact .inl ⟨(State.pop_eq_none s).1 h, by simp [exec, exec00EE, h, raise]⟩
  | some p =>
    obtain ⟨w, t⟩ := p
    exact .inr ⟨(State.pop_eq_some s t w h).1, w, t, rfl, by simp [exec, exec00EE, h]⟩

theorem exec2NNN_cases (nnn : Addr12) (s : State) :
    (s.sp.val = 16 ∧ exec (.op2NNN nnn) s = .fault (.stackOverflow s.instrAddress)) ∨
    (s.sp.val < 16 ∧ ∃ t, s.push s.pc = some t ∧
      exec (.op2NNN nnn) s = .next (t.setPc (zextAddr nnn))) := by
  cases h : s.push s.pc with
  | none => exact .inl ⟨(State.push_eq_none s s.pc).1 h, by simp [exec, exec2NNN, h, raise]⟩
  | some t => exact .inr ⟨(State.push_eq_some s t s.pc h).1, t, rfl, by simp [exec, exec2NNN, h]⟩

theorem execEX9E_cases (x : RegNo) (s : State) :
    (15 < (s.getV x).toNat ∧
      exec (.opEX9E x) s = .fault (.keyIndexOutOfRange (zextByte (s.getV x)))) ∨
    (∃ k : Fin 16, (s.getV x).toNat = k.val ∧ exec (.opEX9E x) s = .next (s.skipIf s.key[k])) := by
  cases h : keyNumber (s.getV x) with
  | none => exact .inl ⟨(keyNumber_eq_none _).1 h, by simp [exec, execEX9E, h, raise]⟩
  | some k => exact .inr ⟨k, (keyNumber_eq_some _ _).1 h, by simp [exec, execEX9E, h]⟩

theorem execEXA1_cases (x : RegNo) (s : State) :
    (15 < (s.getV x).toNat ∧
      exec (.opEXA1 x) s = .fault (.keyIndexOutOfRange (zextByte (s.getV x)))) ∨
    (∃ k : Fin 16, (s.getV x).toNat = k.val ∧
      exec (.opEXA1 x) s = .next (s.skipIf (!s.key[k]))) := by
  cases h : keyNumber (s.getV x) with
  | none => exact .inl ⟨(keyNumber_eq_none _).1 h, by simp [exec, execEXA1, h, raise]⟩
  | some k => exact .inr ⟨k, (keyNumber_eq_some _ _).1 h, by simp [exec, execEXA1, h]⟩

/-- The drawing DXYN makes. -/
def State.drawn (s : State) (x y : RegNo) (n : Fin 16) : Drawing :=
  plotRows (s.spriteColumn x) (s.spriteRow y) (s.readBytes s.i.toNat n.val) (s.fb, false)

theorem execDXYN_cases (x y : RegNo) (n : Fin 16) (s : State) :
    (¬(n.val = 0 ∨ s.i.toNat + n.val ≤ memSize) ∧
      exec (.opDXYN x y n) s = .fault (.memoryOutOfRange s.i)) ∨
    ((n.val = 0 ∨ s.i.toNat + n.val ≤ memSize) ∧
      exec (.opDXYN x y n) s =
        .next ({ s with fb := (s.drawn x y n).1 }.setV regF (collisionFlag (s.drawn x y n).2))) := by
  by_cases h : n.val = 0 ∨ s.i.toNat + n.val ≤ memSize
  · exact .inr ⟨h, State.withBlock_of_exists _ _ _ h⟩
  · exact .inl ⟨h, State.withBlock_of_missing _ _ _ h⟩

theorem execFX33_cases (x : RegNo) (s : State) :
    (memSize < s.i.toNat + 3 ∧ exec (.opFX33 x) s = .fault (.memoryOutOfRange s.i)) ∨
    (s.i.toNat + 3 ≤ memSize ∧
      exec (.opFX33 x) s = .next (s.writeBytes s.i.toNat (bcdDigits (s.getV x)))) := by
  by_cases h : s.i.toNat + 3 ≤ memSize
  · exact .inr ⟨h, State.withBlock_of_exists _ _ _ (.inr h)⟩
  · exact .inl ⟨by omega, State.withBlock_of_missing _ _ _ (by omega)⟩

theorem execFX55_cases (x : RegNo) (s : State) :
    (memSize < s.i.toNat + (x.val + 1) ∧ exec (.opFX55 x) s = .fault (.memoryOutOfRange s.i)) ∨
    (s.i.toNat + (x.val + 1) ≤ memSize ∧
      exec (.opFX55 x) s = .next (s.writeBytes s.i.toNat (s.regBlock x))) := by
  by_cases h : s.i.toNat + (x.val + 1) ≤ memSize
  · exact .inr ⟨h, State.withBlock_of_exists _ _ _ (.inr h)⟩
  · exact .inl ⟨by omega, State.withBlock_of_missing _ _ _ (by omega)⟩

theorem execFX65_cases (x : RegNo) (s : State) :
    (memSize < s.i.toNat + (x.val + 1) ∧ exec (.opFX65 x) s = .fault (.memoryOutOfRange s.i)) ∨
    (s.i.toNat + (x.val + 1) ≤ memSize ∧
      exec (.opFX65 x) s = .next (s.setVBlock (s.readBytes s.i.toNat (x.val + 1)))) := by
  by_cases h : s.i.toNat + (x.val + 1) ≤ memSize
  · exact .inr ⟨h, State.withBlock_of_exists _ _ _ (.inr h)⟩
  · exact .inl ⟨by omega, State.withBlock_of_missing _ _ _ (by omega)⟩

end Sys2Proof.Machine
end

