-- ==== Sys2Proof/Laws/Effect.lean ====
section
/-! SUPPORT. Everything an instruction that completes can do to the state, said once: the inversion
lemma `effect_of_exec`, and the fields a block of writes, a push and a pop leave alone. -/

namespace Sys2Proof.Machine

/-! A block of writes changes memory only. -/

@[simp] theorem State.writeBytes_v (s : State) (a : Nat) (l : List Byte) :
    (s.writeBytes a l).v = s.v := by rw [State.writeBytes_eq]
@[simp] theorem State.writeBytes_i (s : State) (a : Nat) (l : List Byte) :
    (s.writeBytes a l).i = s.i := by rw [State.writeBytes_eq]
@[simp] theorem State.writeBytes_pc (s : State) (a : Nat) (l : List Byte) :
    (s.writeBytes a l).pc = s.pc := by rw [State.writeBytes_eq]
@[simp] theorem State.writeBytes_sp (s : State) (a : Nat) (l : List Byte) :
    (s.writeBytes a l).sp = s.sp := by rw [State.writeBytes_eq]
@[simp] theorem State.writeBytes_stack (s : State) (a : Nat) (l : List Byte) :
    (s.writeBytes a l).stack = s.stack := by rw [State.writeBytes_eq]
@[simp] theorem State.writeBytes_dt (s : State) (a : Nat) (l : List Byte) :
    (s.writeBytes a l).dt = s.dt := by rw [State.writeBytes_eq]
@[simp] theorem State.writeBytes_st (s : State) (a : Nat) (l : List Byte) :
    (s.writeBytes a l).st = s.st := by rw [State.writeBytes_eq]
@[simp] theorem State.writeBytes_key (s : State) (a : Nat) (l : List Byte) :
    (s.writeBytes a l).key = s.key := by rw [State.writeBytes_eq]
@[simp] theorem State.writeBytes_fb (s : State) (a : Nat) (l : List Byte) :
    (s.writeBytes a l).fb = s.fb := by rw [State.writeBytes_eq]
@[simp] theorem State.writeBytes_ir (s : State) (a : Nat) (l : List Byte) :
    (s.writeBytes a l).ir = s.ir := by rw [State.writeBytes_eq]
@[simp] theorem State.writeBytes_config (s : State) (a : Nat) (l : List Byte) :
    (s.writeBytes a l).config = s.config := by rw [State.writeBytes_eq]
@[simp] theorem State.writeBytes_rnd (s : State) (a : Nat) (l : List Byte) :
    (s.writeBytes a l).rnd = s.rnd := by rw [State.writeBytes_eq]
@[simp] theorem State.writeBytes_inputs (s : State) (a : Nat) (l : List Byte) :
    (s.writeBytes a l).inputs = s.inputs := by rw [State.writeBytes_eq]
@[simp] theorem State.writeBytes_stepCount (s : State) (a : Nat) (l : List Byte) :
    (s.writeBytes a l).stepCount = s.stepCount := by rw [State.writeBytes_eq]
@[simp] theorem State.writeBytes_report (s : State) (a : Nat) (l : List Byte) :
    (s.writeBytes a l).report = s.report := by rw [State.writeBytes_eq]
@[simp] theorem State.writeBytes_getV (s : State) (a : Nat) (l : List Byte) (k : RegNo) :
    (s.writeBytes a l).getV k = s.getV k := by rw [State.writeBytes_eq]; rfl
@[simp] theorem State.writeBytes_pixel (s : State) (a : Nat) (l : List Byte) (c : Fin 64)
    (r : Fin 32) : (s.writeBytes a l).pixel c r = s.pixel c r := by rw [State.writeBytes_eq]; rfl

/-! What an instruction can do. -/

/-- What instruction `i`, completing from `s`, can leave: one constructor per shape of effect. -/
inductive Effect (i : Instr) (s : State) : State → Prop
  /-- 00E0. -/
  | clear (hi : i = .op00E0) : Effect i s { s with fb := Framebuffer.clear }
  /-- DXYN. -/
  | draw (x y : RegNo) (n : Fin 16) (hi : i = .opDXYN x y n)
      (hn : n.val = 0 ∨ s.i.toNat + n.val ≤ memSize) :
      Effect i s ({ s with fb := (s.drawn x y n).1 }.setV regF (collisionFlag (s.drawn x y n).2))
  /-- 00EE. -/
  | ret (w : Word) (sp : Fin 17) (hi : i = .op00EE) (hs : sp.val + 1 = s.sp.val)
      (hw : ∀ k : Fin 16, k.val = sp.val → w = s.stack[k]) :
      Effect i s ({ s with sp := sp }.setPc w)
  /-- 2NNN. -/
  | call (nnn : Addr12) (stack : Vector Word 16) (sp : Fin 17) (hi : i = .op2NNN nnn)
      (hs : sp.val = s.sp.val + 1)
      (hst : ∀ k : Fin 16, stack[k] = if k.val = s.sp.val then s.pc else s.stack[k]) :
      Effect i s ({ s with stack := stack, sp := sp }.setPc (zextAddr nnn))
  /-- 1NNN, BNNN. -/
  | jump (w : Word) (hi : (∃ nnn, i = .op1NNN nnn) ∨ ∃ nnn, i = .opBNNN nnn)
      (hw : w.toNat ≤ 0x10FE) : Effect i s (s.setPc w)
  /-- The six skips. -/
  | skip (c : Bool) : Effect i s (s.skipIf c)
  /-- FX0A with no key pressed. -/
  | wait (x : RegNo) (hi : i = .opFX0A x) (hk : firstPressed s.key = none) :
      Effect i s (s.setPc (s.pc - 2))
  /-- An instruction that writes one register. -/
  | write (x : RegNo) (b : Byte)
      (hi : (∃ nn, i = .op6XNN x nn) ∨ (∃ nn, i = .op7XNN x nn) ∨ (∃ y, i = .op8XY0 x y) ∨
        (∃ y, i = .op8XY1 x y) ∨ (∃ y, i = .op8XY2 x y) ∨ (∃ y, i = .op8XY3 x y) ∨
        (∃ nn, i = .opCXNN x nn) ∨ i = .opFX07 x ∨ i = .opFX0A x) : Effect i s (s.setV x b)
  /-- An instruction that writes VF and then its register. -/
  | writeFlag (x : RegNo) (f b : Byte)
      (hi : (∃ y, i = .op8XY4 x y) ∨ (∃ y, i = .op8XY5 x y) ∨ (∃ y, i = .op8XY6 x y) ∨
        (∃ y, i = .op8XY7 x y) ∨ ∃ y, i = .op8XYE x y) :
      Effect i s ((s.setV regF f).setV x b)
  /-- FX65. -/
  | load (x : RegNo) (hi : i = .opFX65 x) (hx : s.i.toNat + (x.val + 1) ≤ memSize) :
      Effect i s (s.setVBlock (s.readBytes s.i.toNat (x.val + 1)))
  /-- FX33, FX55. -/
  | store (l : List Byte) (hi : (∃ x, i = .opFX33 x) ∨ ∃ x, i = .opFX55 x)
      (hl : s.i.toNat + l.length ≤ memSize) : Effect i s (s.writeBytes s.i.toNat l)
  /-- ANNN, FX1E, FX29. -/
  | index (w : Word) (hi : (∃ nnn, i = .opANNN nnn) ∨ (∃ x, i = .opFX1E x) ∨ ∃ x, i = .opFX29 x) :
      Effect i s (s.setI w)
  /-- FX15. -/
  | delay (x : RegNo) (hi : i = .opFX15 x) : Effect i s (s.setDT (s.getV x))
  /-- FX18. -/
  | sound (x : RegNo) (hi : i = .opFX18 x) : Effect i s (s.setST (s.getV x))

/-- An instruction that completes has one of the effects. -/
theorem effect_of_exec (i : Instr) (s t : State) (h : exec i s = .next t) : Effect i s t := by
  cases i with
  | op00EE =>
    rcases exec00EE_cases s with ⟨_, e⟩ | ⟨hpos, w, u, hp, e⟩ <;> rw [e] at h <;> cases h
    obtain ⟨-, hs, hu, hw⟩ := State.pop_eq_some _ _ _ hp
    rw [hu]
    exact .ret w u.sp rfl (by omega) fun k hk => hw k (by omega)
  | op2NNN nnn =>
    rcases exec2NNN_cases nnn s with ⟨_, e⟩ | ⟨_, u, hp, e⟩ <;> rw [e] at h <;> cases h
    obtain ⟨-, hs, hu, hst⟩ := State.push_eq_some _ _ _ hp
    rw [hu]
    exact .call nnn u.stack u.sp rfl hs hst
  | opDXYN x y n =>
    rcases execDXYN_cases x y n s with ⟨_, e⟩ | ⟨hn, e⟩ <;> rw [e] at h <;> cases h
    exact .draw x y n rfl hn
  | opEX9E x =>
    rcases execEX9E_cases x s with ⟨_, e⟩ | ⟨_, _, e⟩ <;> rw [e] at h <;> cases h
    exact .skip _
  | opEXA1 x =>
    rcases execEXA1_cases x s with ⟨_, e⟩ | ⟨_, _, e⟩ <;> rw [e] at h <;> cases h
    exact .skip _
  | opFX33 x =>
    rcases execFX33_cases x s with ⟨_, e⟩ | ⟨hx, e⟩ <;> rw [e] at h <;> cases h
    exact .store (bcdDigits (s.getV x)) (.inl ⟨x, rfl⟩) hx
  | opFX55 x =>
    rcases execFX55_cases x s with ⟨_, e⟩ | ⟨hx, e⟩ <;> rw [e] at h <;> cases h
    exact .store (s.regBlock x) (.inr ⟨x, rfl⟩) (by rw [State.regBlock_length]; exact hx)
  | opFX65 x =>
    rcases execFX65_cases x s with ⟨_, e⟩ | ⟨hx, e⟩ <;> rw [e] at h <;> cases h
    exact .load x rfl hx
  | opFX0A x =>
    cases h
    cases hk : firstPressed s.key with
    | none => exact .wait x rfl hk
    | some k => exact .write x _ (by simp)
  | op00E0 => cases h; exact .clear rfl
  | op1NNN nnn =>
    cases h
    exact .jump _ (.inl ⟨nnn, rfl⟩) (by rw [zextAddr_toNat]; omega)
  | opBNNN nnn =>
    cases h
    exact .jump _ (.inr ⟨nnn, rfl⟩) (by rw [State.offsetTarget_toNat]; omega)
  | opFX15 x => cases h; exact .delay x rfl
  | opFX18 x => cases h; exact .sound x rfl
  | op3XNN _ _ | op4XNN _ _ | op5XY0 _ _ | op9XY0 _ _ => cases h; exact .skip _
  | op6XNN x _ | op7XNN x _ | op8XY0 x _ | op8XY1 x _ | op8XY2 x _ | op8XY3 x _ | opCXNN x _
  | opFX07 x => cases h; exact .write x _ (by simp)
  | op8XY4 x _ | op8XY5 x _ | op8XY6 x _ | op8XY7 x _ | op8XYE x _ =>
    cases h; exact .writeFlag x _ _ (by simp)
  | opANNN _ | opFX1E _ | opFX29 _ => cases h; exact .index _ (by simp)

end Sys2Proof.Machine
end

