-- ==== Sys2Proof/Laws/PerInstr.lean ====
section
/-! SUPPORT. Statements made of every instruction as syntax, one lemma per constructor. Family
MatchesRow: an instruction's word, whatever its operands, matches the instruction's row of
spec/opcode_table.json. -/

namespace Sys2Proof

/-! A word under the four masks of the table. -/

theorem formatNNN_getLsbD (c : BitVec 4) (nnn : Addr12) (i : Nat) :
    (formatNNN c nnn).getLsbD i = if i < 12 then nnn.getLsbD i else c.getLsbD (i - 12) :=
  BitVec.getLsbD_append

theorem and_mask_class (w : Word) : w &&& 0xF000 = formatNNN (fieldsOf w).opClass 0 := by
  apply BitVec.eq_of_getLsbD_eq
  intro i hi
  rw [BitVec.getLsbD_and, formatNNN_getLsbD]
  interval_cases i <;> simp [fieldsOf]

theorem and_mask_class_n (w : Word) :
    w &&& 0xF00F = formatNNN (fieldsOf w).opClass ((fieldsOf w).n.setWidth 12) := by
  apply BitVec.eq_of_getLsbD_eq
  intro i hi
  rw [BitVec.getLsbD_and, formatNNN_getLsbD]
  interval_cases i <;> simp [fieldsOf]

theorem and_mask_class_nn (w : Word) :
    w &&& 0xF0FF = formatNNN (fieldsOf w).opClass ((fieldsOf w).nn.setWidth 12) := by
  apply BitVec.eq_of_getLsbD_eq
  intro i hi
  rw [BitVec.getLsbD_and, formatNNN_getLsbD]
  interval_cases i <;> simp [fieldsOf]

/-- The family's statement: the word of the instruction matches its row. -/
def Laws.MatchesRow.Statement (i : Instr) : Prop := i.row.accepts (encode i) = true

theorem Laws.MatchesRow.op00E0 : Laws.MatchesRow.Statement .op00E0 := rfl

theorem Laws.MatchesRow.op00EE : Laws.MatchesRow.Statement .op00EE := rfl

theorem Laws.MatchesRow.op1NNN (nnn : Addr12) : Laws.MatchesRow.Statement (.op1NNN nnn) := by
  simp only [Laws.MatchesRow.Statement, OpcodeRow.accepts, Instr.row, encode, and_mask_class, fieldsOf_formatNNN]
  decide

theorem Laws.MatchesRow.op2NNN (nnn : Addr12) : Laws.MatchesRow.Statement (.op2NNN nnn) := by
  simp only [Laws.MatchesRow.Statement, OpcodeRow.accepts, Instr.row, encode, and_mask_class, fieldsOf_formatNNN]
  decide

theorem Laws.MatchesRow.op3XNN (x : RegNo) (nn : Byte) : Laws.MatchesRow.Statement (.op3XNN x nn) := by
  simp only [Laws.MatchesRow.Statement, OpcodeRow.accepts, Instr.row, encode, and_mask_class, fieldsOf_formatXNN]
  decide

theorem Laws.MatchesRow.op4XNN (x : RegNo) (nn : Byte) : Laws.MatchesRow.Statement (.op4XNN x nn) := by
  simp only [Laws.MatchesRow.Statement, OpcodeRow.accepts, Instr.row, encode, and_mask_class, fieldsOf_formatXNN]
  decide

theorem Laws.MatchesRow.op5XY0 (x : RegNo) (y : RegNo) : Laws.MatchesRow.Statement (.op5XY0 x y) := by
  simp only [Laws.MatchesRow.Statement, OpcodeRow.accepts, Instr.row, encode, and_mask_class_n, fieldsOf_formatXYN]
  decide

theorem Laws.MatchesRow.op6XNN (x : RegNo) (nn : Byte) : Laws.MatchesRow.Statement (.op6XNN x nn) := by
  simp only [Laws.MatchesRow.Statement, OpcodeRow.accepts, Instr.row, encode, and_mask_class, fieldsOf_formatXNN]
  decide

theorem Laws.MatchesRow.op7XNN (x : RegNo) (nn : Byte) : Laws.MatchesRow.Statement (.op7XNN x nn) := by
  simp only [Laws.MatchesRow.Statement, OpcodeRow.accepts, Instr.row, encode, and_mask_class, fieldsOf_formatXNN]
  decide

theorem Laws.MatchesRow.op8XY0 (x : RegNo) (y : RegNo) : Laws.MatchesRow.Statement (.op8XY0 x y) := by
  simp only [Laws.MatchesRow.Statement, OpcodeRow.accepts, Instr.row, encode, and_mask_class_n, fieldsOf_formatXYN]
  decide

theorem Laws.MatchesRow.op8XY1 (x : RegNo) (y : RegNo) : Laws.MatchesRow.Statement (.op8XY1 x y) := by
  simp only [Laws.MatchesRow.Statement, OpcodeRow.accepts, Instr.row, encode, and_mask_class_n, fieldsOf_formatXYN]
  decide

theorem Laws.MatchesRow.op8XY2 (x : RegNo) (y : RegNo) : Laws.MatchesRow.Statement (.op8XY2 x y) := by
  simp only [Laws.MatchesRow.Statement, OpcodeRow.accepts, Instr.row, encode, and_mask_class_n, fieldsOf_formatXYN]
  decide

theorem Laws.MatchesRow.op8XY3 (x : RegNo) (y : RegNo) : Laws.MatchesRow.Statement (.op8XY3 x y) := by
  simp only [Laws.MatchesRow.Statement, OpcodeRow.accepts, Instr.row, encode, and_mask_class_n, fieldsOf_formatXYN]
  decide

theorem Laws.MatchesRow.op8XY4 (x : RegNo) (y : RegNo) : Laws.MatchesRow.Statement (.op8XY4 x y) := by
  simp only [Laws.MatchesRow.Statement, OpcodeRow.accepts, Instr.row, encode, and_mask_class_n, fieldsOf_formatXYN]
  decide

theorem Laws.MatchesRow.op8XY5 (x : RegNo) (y : RegNo) : Laws.MatchesRow.Statement (.op8XY5 x y) := by
  simp only [Laws.MatchesRow.Statement, OpcodeRow.accepts, Instr.row, encode, and_mask_class_n, fieldsOf_formatXYN]
  decide

theorem Laws.MatchesRow.op8XY6 (x : RegNo) (y : RegNo) : Laws.MatchesRow.Statement (.op8XY6 x y) := by
  simp only [Laws.MatchesRow.Statement, OpcodeRow.accepts, Instr.row, encode, and_mask_class_n, fieldsOf_formatXYN]
  decide

theorem Laws.MatchesRow.op8XY7 (x : RegNo) (y : RegNo) : Laws.MatchesRow.Statement (.op8XY7 x y) := by
  simp only [Laws.MatchesRow.Statement, OpcodeRow.accepts, Instr.row, encode, and_mask_class_n, fieldsOf_formatXYN]
  decide

theorem Laws.MatchesRow.op8XYE (x : RegNo) (y : RegNo) : Laws.MatchesRow.Statement (.op8XYE x y) := by
  simp only [Laws.MatchesRow.Statement, OpcodeRow.accepts, Instr.row, encode, and_mask_class_n, fieldsOf_formatXYN]
  decide

theorem Laws.MatchesRow.op9XY0 (x : RegNo) (y : RegNo) : Laws.MatchesRow.Statement (.op9XY0 x y) := by
  simp only [Laws.MatchesRow.Statement, OpcodeRow.accepts, Instr.row, encode, and_mask_class_n, fieldsOf_formatXYN]
  decide

theorem Laws.MatchesRow.opANNN (nnn : Addr12) : Laws.MatchesRow.Statement (.opANNN nnn) := by
  simp only [Laws.MatchesRow.Statement, OpcodeRow.accepts, Instr.row, encode, and_mask_class, fieldsOf_formatNNN]
  decide

theorem Laws.MatchesRow.opBNNN (nnn : Addr12) : Laws.MatchesRow.Statement (.opBNNN nnn) := by
  simp only [Laws.MatchesRow.Statement, OpcodeRow.accepts, Instr.row, encode, and_mask_class, fieldsOf_formatNNN]
  decide

theorem Laws.MatchesRow.opCXNN (x : RegNo) (nn : Byte) : Laws.MatchesRow.Statement (.opCXNN x nn) := by
  simp only [Laws.MatchesRow.Statement, OpcodeRow.accepts, Instr.row, encode, and_mask_class, fieldsOf_formatXNN]
  decide

theorem Laws.MatchesRow.opDXYN (x : RegNo) (y : RegNo) (n : Fin 16) : Laws.MatchesRow.Statement (.opDXYN x y n) := by
  simp only [Laws.MatchesRow.Statement, OpcodeRow.accepts, Instr.row, encode, and_mask_class, fieldsOf_formatXYN]
  decide

theorem Laws.MatchesRow.opEX9E (x : RegNo) : Laws.MatchesRow.Statement (.opEX9E x) := by
  simp only [Laws.MatchesRow.Statement, OpcodeRow.accepts, Instr.row, encode, and_mask_class_nn, fieldsOf_formatXNN]
  decide

theorem Laws.MatchesRow.opEXA1 (x : RegNo) : Laws.MatchesRow.Statement (.opEXA1 x) := by
  simp only [Laws.MatchesRow.Statement, OpcodeRow.accepts, Instr.row, encode, and_mask_class_nn, fieldsOf_formatXNN]
  decide

theorem Laws.MatchesRow.opFX07 (x : RegNo) : Laws.MatchesRow.Statement (.opFX07 x) := by
  simp only [Laws.MatchesRow.Statement, OpcodeRow.accepts, Instr.row, encode, and_mask_class_nn, fieldsOf_formatXNN]
  decide

theorem Laws.MatchesRow.opFX0A (x : RegNo) : Laws.MatchesRow.Statement (.opFX0A x) := by
  simp only [Laws.MatchesRow.Statement, OpcodeRow.accepts, Instr.row, encode, and_mask_class_nn, fieldsOf_formatXNN]
  decide

theorem Laws.MatchesRow.opFX15 (x : RegNo) : Laws.MatchesRow.Statement (.opFX15 x) := by
  simp only [Laws.MatchesRow.Statement, OpcodeRow.accepts, Instr.row, encode, and_mask_class_nn, fieldsOf_formatXNN]
  decide

theorem Laws.MatchesRow.opFX18 (x : RegNo) : Laws.MatchesRow.Statement (.opFX18 x) := by
  simp only [Laws.MatchesRow.Statement, OpcodeRow.accepts, Instr.row, encode, and_mask_class_nn, fieldsOf_formatXNN]
  decide

theorem Laws.MatchesRow.opFX1E (x : RegNo) : Laws.MatchesRow.Statement (.opFX1E x) := by
  simp only [Laws.MatchesRow.Statement, OpcodeRow.accepts, Instr.row, encode, and_mask_class_nn, fieldsOf_formatXNN]
  decide

theorem Laws.MatchesRow.opFX29 (x : RegNo) : Laws.MatchesRow.Statement (.opFX29 x) := by
  simp only [Laws.MatchesRow.Statement, OpcodeRow.accepts, Instr.row, encode, and_mask_class_nn, fieldsOf_formatXNN]
  decide

theorem Laws.MatchesRow.opFX33 (x : RegNo) : Laws.MatchesRow.Statement (.opFX33 x) := by
  simp only [Laws.MatchesRow.Statement, OpcodeRow.accepts, Instr.row, encode, and_mask_class_nn, fieldsOf_formatXNN]
  decide

theorem Laws.MatchesRow.opFX55 (x : RegNo) : Laws.MatchesRow.Statement (.opFX55 x) := by
  simp only [Laws.MatchesRow.Statement, OpcodeRow.accepts, Instr.row, encode, and_mask_class_nn, fieldsOf_formatXNN]
  decide

theorem Laws.MatchesRow.opFX65 (x : RegNo) : Laws.MatchesRow.Statement (.opFX65 x) := by
  simp only [Laws.MatchesRow.Statement, OpcodeRow.accepts, Instr.row, encode, and_mask_class_nn, fieldsOf_formatXNN]
  decide

end Sys2Proof
end

