-- ==== Sys2Proof/Tests/Slice0.lean ====
section
/-! SUPPORT. Tests on fixed values, each about one step or one instruction, with expected values from
the spec (95_test_vectors.md vector names in the comments), and a witness for the hypotheses of every
statement of Certificates/Slice0/Obligations.lean. -/

open Sys2Proof Sys2Proof.Machine Sys2Proof.Claims

namespace Sys2Proof.Tests

/-! Helpers: small states, and what a result is. -/

/-- The reset state with one step input listed: these keys pressed, this random byte. -/
def idle (pressed : List Nat := []) (rnd : Byte := 0) : State :=
  { State.reset with inputs := [⟨Vector.ofFn fun k => pressed.contains k.val, rnd⟩] }

/-- Registers written, in order. -/
def withRegs (s : State) (l : List (RegNo × Byte)) : State := l.foldl (fun s p => s.setV p.1 p.2) s

/-- One step with the word placed at PC. -/
def run (w : Nat) (s : State) : Result := step (s.withFetchWord 16 w)

def nextIs (o : Result) (p : State → Bool) : Bool :=
  match o with
  | .next t => p t
  | .fault _ => false
  | .refused _ => false

def faultIs (o : Result) (f : Fault) : Bool :=
  match o with
  | .next _ => false
  | .fault g => f == g
  | .refused _ => false

theorem next_of_nextIs {o : Result} {p : State → Bool} (h : nextIs o p = true) :
    ∃ t, o = .next t ∧ p t = true := by
  cases o with
  | next t => exact ⟨t, rfl, h⟩
  | fault _ => cases h
  | refused _ => cases h

theorem fault_of_faultIs {o : Result} {f : Fault} (h : faultIs o f = true) : o = .fault f := by
  cases o with
  | next _ => cases h
  | fault g => exact congrArg _ (eq_of_beq h).symm
  | refused _ => cases h

/-- The state executes its next word as an instruction (a decidable form of `FetchesInstr`). -/
theorem fetches {s : State} {i : Instr} (h : s.pc.toNat + 1 < 4096 ∧
    decode (joinBytes (s.readByte s.pc.toNat) (s.readByte (s.pc.toNat + 1))) = .instr i) :
    FetchesInstr s i := h

/-! WellFormed: an ill-formed input for each check, which the check refuses (R76, R251). -/

/-- `nn` = 0x35 where y:n = 0x34. -/
theorem test_fields_nn_refused :
    Fields.wellFormed ⟨0x1, 0x2, 0x3, 0x4, 0x35, 0x234⟩ = false ∧
    Fields.nnAgrees ⟨0x1, 0x2, 0x3, 0x4, 0x35, 0x234⟩ = false := by decide

/-- `nnn` = 0x334 where x:y:n = 0x234. -/
theorem test_fields_nnn_refused :
    Fields.wellFormed ⟨0x1, 0x2, 0x3, 0x4, 0x34, 0x334⟩ = false ∧
    Fields.nnnAgrees ⟨0x1, 0x2, 0x3, 0x4, 0x34, 0x334⟩ = false := by decide

theorem test_fields_accepted : Fields.wellFormed ⟨0x1, 0x2, 0x3, 0x4, 0x34, 0x234⟩ = true := by decide

/-- E7, Z3, Z4: 3584 bytes are accepted, 3585 are not. -/
theorem test_rom_length :
    romWellFormed (List.replicate 3585 0) = false ∧ romWellFormed (List.replicate 3584 0) = true := by
  unfold romWellFormed
  rw [List.length_replicate, List.length_replicate]
  decide

/-! Decoding: one word of every row, written bit by bit from the encodings of 30_encoding.md. -/

theorem test_decode_control :
    decode 0b0000000011100000 = .instr .op00E0 ∧ decode 0b0000000011101110 = .instr .op00EE ∧
    decode 0b0001001000110100 = .instr (.op1NNN 0x234) ∧
    decode 0b0010001100000001 = .instr (.op2NNN 0x301) ∧
    decode 0b1011011111111110 = .instr (.opBNNN 0x7FE) := by decide

theorem test_decode_skips :
    decode 0b0011001101000010 = .instr (.op3XNN 3 0x42) ∧
    decode 0b0100101110000001 = .instr (.op4XNN 11 0x81) ∧
    decode 0b0101000100100000 = .instr (.op5XY0 1 2) ∧
    decode 0b1001111000010000 = .instr (.op9XY0 14 1) ∧
    decode 0b1110010010011110 = .instr (.opEX9E 4) ∧
    decode 0b1110010110100001 = .instr (.opEXA1 5) := by decide

theorem test_decode_loads :
    decode 0b0110101010011101 = .instr (.op6XNN 10 0x9D) ∧
    decode 0b0111000011111111 = .instr (.op7XNN 0 0xFF) ∧
    decode 0b1100001100001111 = .instr (.opCXNN 3 0x0F) ∧
    decode 0b1000000100100000 = .instr (.op8XY0 1 2) ∧
    decode 0b1000001000010001 = .instr (.op8XY1 2 1) ∧
    decode 0b1000001101000010 = .instr (.op8XY2 3 4) ∧
    decode 0b1000010000110011 = .instr (.op8XY3 4 3) := by decide

theorem test_decode_arithmetic :
    decode 0b1000000000010100 = .instr (.op8XY4 0 1) ∧
    decode 0b1000111100010101 = .instr (.op8XY5 15 1) ∧
    decode 0b1000000111110110 = .instr (.op8XY6 1 15) ∧
    decode 0b1000011110000111 = .instr (.op8XY7 7 8) ∧
    decode 0b1000100010011110 = .instr (.op8XYE 8 9) := by decide

theorem test_decode_draw_and_timers :
    decode 0b1101000000010010 = .instr (.opDXYN 0 1 2) ∧
    decode 0b1111000100000111 = .instr (.opFX07 1) ∧
    decode 0b1111001000001010 = .instr (.opFX0A 2) ∧
    decode 0b1111001100010101 = .instr (.opFX15 3) ∧
    decode 0b1111010000011000 = .instr (.opFX18 4) := by decide

theorem test_decode_index :
    decode 0b1010001100000101 = .instr (.opANNN 0x305) ∧
    decode 0b1111010100011110 = .instr (.opFX1E 5) ∧
    decode 0b1111011000101001 = .instr (.opFX29 6) ∧
    decode 0b1111011100110011 = .instr (.opFX33 7) ∧
    decode 0b1111100001010101 = .instr (.opFX55 8) ∧
    decode 0b1111100101100101 = .instr (.opFX65 9) := by decide

/-- S4 to S10: words that match no row, by name. -/
theorem test_decode_unknown :
    decode 0x0000 = .unknown 0x0000 ∧ decode 0x0123 = .unknown 0x0123 ∧
    decode 0x01E0 = .unknown 0x01E0 ∧ decode 0x5121 = .unknown 0x5121 ∧
    decode 0x9121 = .unknown 0x9121 ∧ decode 0x8128 = .unknown 0x8128 ∧
    decode 0x812F = .unknown 0x812F ∧ decode 0xE19F = .unknown 0xE19F ∧
    decode 0xF100 = .unknown 0xF100 := by decide

/-- R52, R75: the byte at the lower address is the high byte; one byte alone is no instruction. -/
theorem test_decode_bytes :
    decodeBytes [0x6A, 0x9D, 0x01] = .ok (.op6XNN 10 0x9D, [0x01]) ∧
    decodeBytes [0x6A] = .error (.truncated [0x6A]) ∧
    decodeBytes [0x51, 0x21] = .error (.unknownOpcode 0x5121) ∧
    decodeTableWord 16 0x6A9D = some (.op6XNN 10 0x9D) ∧ decodeTableWord 16 0x5121 = none := by decide

/-! The step. -/

/-- S1, S3: the fetch fails at 0xFFF and 0x1000, with PC as info. -/
theorem test_invalid_fetch :
    faultIs (step (State.reset.setPc 0xFFF)) (.invalidFetch 0xFFF) = true ∧
    faultIs (step (State.reset.setPc 0x1000)) (.invalidFetch 0x1000) = true := by decide

/-- S2: the last fetch that succeeds. -/
theorem test_fetch_at_ffe :
    nextIs (run 0x1200 ((idle).setPc 0xFFE)) (fun t => t.ir == 0x1200 && t.pc == 0x200) = true := by
  decide

/-- S4: a 0-byte ROM reports UnknownOpcode 0x0000 and goes on. -/
theorem test_unknown_opcode :
    nextIs (step State.reset) (fun t => t.report == .unknownOpcode 0 && t.pc == 0x202) = true := by
  decide

/-- S11: the timers on an unknown word, for both values of UNKNOWN_TICKS_TIMERS. -/
theorem test_unknown_ticks_timers :
    nextIs (step ((State.reset.setDT 5).setST 3)) (fun t => t.dt == 4 && t.st == 2) = true ∧
    nextIs (step { (State.reset.setDT 5).setST 3 with
      config := { standardConfig with unknownTicksTimers := false } })
      (fun t => t.dt == 5 && t.st == 3) = true := by decide

/-- S12, S13: the snapshot overwrites the latch. -/
theorem test_key_latch :
    nextIs (run 0x6000 (idle [4])) (fun t => t.key[4] && !t.key[5]) = true ∧
    nextIs (run 0x6000 { idle with key := Vector.replicate 16 true })
      (fun t => !t.key[4] && !t.key[0]) = true := by decide

/-- R107: the timers count in an ordinary step, and stop at 0. -/
theorem test_timers_count :
    nextIs (run 0x6000 ((idle).setDT 5)) (fun t => t.dt == 4 && t.st == 0 && t.report == .ok) = true := by
  decide

/-! Control flow. -/

/-- F1, F2. -/
theorem test_1NNN : nextIs (run 0x1234 idle) (fun t => t.pc == 0x234) = true ∧
    nextIs (run 0x1201 idle) (fun t => t.pc == 0x201) = true := by decide

/-- F4, F5. -/
theorem test_2NNN :
    nextIs (run 0x2300 idle) (fun t => t.stack[0] == 0x202 && t.sp == 1 && t.pc == 0x300) = true ∧
    faultIs (run 0x2300 { idle with sp := 16 }) (.stackOverflow 0x200) = true := by decide

/-- F6, F7. -/
theorem test_00EE : faultIs (run 0x00EE idle) (.stackUnderflow 0x200) = true ∧
    nextIs (run 0x00EE { idle with sp := 3, stack := State.reset.stack.set 2 0x456 })
      (fun t => t.sp == 2 && t.pc == 0x456 && t.stack[2] == 0x456) = true := by decide

/-- F8, F9. -/
theorem test_BNNN : nextIs (run 0xB300 ((idle).setV 0 0x10)) (fun t => t.pc == 0x310) = true ∧
    nextIs (run 0xBFFF ((idle).setV 0 0xFF)) (fun t => t.pc == 0x10FE) = true := by decide

/-- F10, F11. -/
theorem test_3XNN : nextIs (run 0x3342 ((idle).setV 3 0x42)) (fun t => t.pc == 0x204) = true ∧
    nextIs (run 0x3342 ((idle).setV 3 0x41)) (fun t => t.pc == 0x202) = true := by decide

/-- F12, F13. -/
theorem test_4XNN : nextIs (run 0x4342 ((idle).setV 3 0x41)) (fun t => t.pc == 0x204) = true ∧
    nextIs (run 0x4342 ((idle).setV 3 0x42)) (fun t => t.pc == 0x202) = true := by decide

/-- F14, F15. -/
theorem test_5XY0 :
    nextIs (run 0x5120 (withRegs idle [(1, 7), (2, 7)])) (fun t => t.pc == 0x204) = true ∧
    nextIs (run 0x5120 (withRegs idle [(1, 7), (2, 8)])) (fun t => t.pc == 0x202) = true := by decide

/-- F16, F17. -/
theorem test_9XY0 :
    nextIs (run 0x9120 (withRegs idle [(1, 7), (2, 8)])) (fun t => t.pc == 0x204) = true ∧
    nextIs (run 0x9120 (withRegs idle [(1, 7), (2, 7)])) (fun t => t.pc == 0x202) = true := by decide

/-! Registers and ALU. -/

/-- A1. -/
theorem test_6XNN : nextIs (run 0x6A9D idle) (fun t => t.getV 10 == 0x9D) = true := by decide

/-- A2, A3. -/
theorem test_7XNN :
    nextIs (run 0x70FF (withRegs idle [(0, 1), (15, 7)]))
      (fun t => t.getV 0 == 0 && t.getV 15 == 7) = true ∧
    nextIs (run 0x7F01 ((idle).setV 15 0xFF)) (fun t => t.getV 15 == 0) = true := by decide

/-- A4. -/
theorem test_8XY0 : nextIs (run 0x8010 ((idle).setV 1 0x99)) (fun t => t.getV 0 == 0x99) = true := by
  decide

/-- A5. -/
theorem test_8XY1 : nextIs (run 0x8011 (withRegs idle [(0, 0x0F), (1, 0xF0), (15, 0x55)]))
    (fun t => t.getV 0 == 0xFF && t.getV 15 == 0x55) = true := by decide

/-- A6. -/
theorem test_8XY2 : nextIs (run 0x8012 (withRegs idle [(0, 0x3C), (1, 0x0F)]))
    (fun t => t.getV 0 == 0x0C) = true := by decide

/-- A7. -/
theorem test_8XY3 : nextIs (run 0x8013 (withRegs idle [(0, 0xFF), (1, 0x0F)]))
    (fun t => t.getV 0 == 0xF0) = true := by decide

/-- A9, A13. -/
theorem test_8XY4 :
    nextIs (run 0x8014 (withRegs idle [(0, 0xFF), (1, 2)]))
      (fun t => t.getV 0 == 1 && t.getV 1 == 2 && t.getV 15 == 1) = true ∧
    nextIs (run 0x8F14 (withRegs idle [(15, 0x10), (1, 0x20)]))
      (fun t => t.getV 15 == 0x30) = true := by decide

/-- A18, A22. -/
theorem test_8XY5 :
    nextIs (run 0x8015 (withRegs idle [(0, 3), (1, 5)]))
      (fun t => t.getV 0 == 0xFE && t.getV 15 == 0) = true ∧
    nextIs (run 0x81F5 (withRegs idle [(1, 5), (15, 3)]))
      (fun t => t.getV 1 == 4 && t.getV 15 == 1) = true := by decide

/-- A26, A27. -/
theorem test_8XY6 :
    nextIs (run 0x8016 (withRegs idle [(0, 0xFF), (1, 0)]))
      (fun t => t.getV 0 == 0x7F && t.getV 15 == 1) = true ∧
    nextIs (run 0x8F06 ((idle).setV 15 3)) (fun t => t.getV 15 == 0) = true := by decide

/-- A29, A32. -/
theorem test_8XY7 :
    nextIs (run 0x8017 (withRegs idle [(0, 5), (1, 3)]))
      (fun t => t.getV 0 == 0xFE && t.getV 15 == 0) = true ∧
    nextIs (run 0x81F7 (withRegs idle [(1, 3), (15, 5)]))
      (fun t => t.getV 1 == 0xFE && t.getV 15 == 1) = true := by decide

/-- A33, A35. -/
theorem test_8XYE :
    nextIs (run 0x801E ((idle).setV 0 0x81)) (fun t => t.getV 0 == 2 && t.getV 15 == 1) = true ∧
    nextIs (run 0x8F0E ((idle).setV 15 0x81)) (fun t => t.getV 15 == 2) = true := by decide

/-- A37, A39. -/
theorem test_CXNN :
    nextIs (run 0xC30F (idle [] 0xA7)) (fun t => t.getV 3 == 7) = true ∧
    nextIs (run 0xC300 (idle [] 0xA7)) (fun t => t.getV 3 == 0) = true := by decide

/-! Display. -/

/-- D1. -/
theorem test_00E0 :
    nextIs (run 0x00E0 { (idle).setV 15 9 with fb := Framebuffer.flip Framebuffer.clear 5 6 })
      (fun t => !t.pixel 5 6 && !t.pixel 63 31 && t.getV 15 == 9) = true := by decide

/-- D5, D3. -/
theorem test_DXYN :
    nextIs (exec (.opDXYN 0 1 2) ((withRegs (idle) [(0, 62), (1, 31), (15, 9)]).setI 0x300
        |>.writeBytes 0x300 [0xE0, 0x80]))
      (fun t => t.pixel 62 31 && t.pixel 63 31 && t.pixel 0 31 && t.pixel 62 0 && !t.pixel 61 31 &&
        !t.pixel 1 31 && t.getV 15 == 0) = true ∧
    nextIs (exec (.opDXYN 0 1 1) { ((idle).setI 0x300).writeByte 0x300 0x80 with
        fb := Framebuffer.flip Framebuffer.clear 0 0 })
      (fun t => !t.pixel 0 0 && t.getV 15 == 1) = true := by decide

/-- D7, D9. -/
theorem test_DXYN_range :
    nextIs (exec (.opDXYN 0 1 0) (((idle).setI 0xFFFF).setV 15 1)) (fun t => t.getV 15 == 0) = true ∧
    faultIs (exec (.opDXYN 0 1 2) ((idle).setI 0xFFF)) (.memoryOutOfRange 0xFFF) = true := by decide

/-! Keys and timers. -/

/-- K1, K5. -/
theorem test_EX9E : nextIs (run 0xE49E ((idle [10]).setV 4 10)) (fun t => t.pc == 0x204) = true ∧
    faultIs (run 0xE49E ((idle [10]).setV 4 16)) (.keyIndexOutOfRange 16) = true := by decide

/-- K3, K4. -/
theorem test_EXA1 : nextIs (run 0xE4A1 ((idle).setV 4 10)) (fun t => t.pc == 0x204) = true ∧
    nextIs (run 0xE4A1 ((idle [10]).setV 4 10)) (fun t => t.pc == 0x202) = true := by decide

/-- K8. -/
theorem test_FX07 : nextIs (run 0xF107 ((idle).setDT 5)) (fun t => t.getV 1 == 5 && t.dt == 4) = true := by
  decide

/-- K10, K11. -/
theorem test_FX0A :
    nextIs (run 0xF20A ((idle [9, 3]).setPc 0x206)) (fun t => t.getV 2 == 3 && t.pc == 0x208) = true ∧
    nextIs (run 0xF20A ((idle).setPc 0x206)) (fun t => t.getV 2 == 0 && t.pc == 0x206) = true := by
  decide

/-- K14, K15. -/
theorem test_FX15 : nextIs (run 0xF015 ((idle).setV 0 3)) (fun t => t.dt == 2) = true ∧
    nextIs (run 0xF015 idle) (fun t => t.dt == 0) = true := by decide

/-- K16, K17. -/
theorem test_FX18 : nextIs (run 0xF018 ((idle).setV 0 2)) (fun t => t.st == 1 && t.soundOn) = true ∧
    nextIs (run 0xF018 ((idle).setV 0 1)) (fun t => t.st == 0 && !t.soundOn) = true := by decide

/-! Index register and memory. -/

/-- M1. -/
theorem test_ANNN : nextIs (run 0xA300 ((idle).setI 0xF000)) (fun t => t.i == 0x300) = true := by decide

/-- M2, M3. -/
theorem test_FX1E :
    nextIs (run 0xF11E (((idle).setI 0xFFF).setV 1 2)) (fun t => t.i == 0x1001) = true ∧
    nextIs (run 0xF11E ((withRegs idle [(1, 1), (15, 1)]).setI 0xFFFF))
      (fun t => t.i == 0 && t.getV 15 == 1) = true := by decide

/-- M4, M6. -/
theorem test_FX29 : nextIs (run 0xF029 ((idle).setV 0 10)) (fun t => t.i == 0x82) = true ∧
    nextIs (run 0xF029 ((idle).setV 0 0xFF)) (fun t => t.i == 0x54B) = true := by decide

/-- E5, M11. -/
theorem test_FX33 :
    nextIs (run 0xF333 (((idle).setI 0x300).setV 3 157))
      (fun t => t.readBytes 0x300 3 == [1, 5, 7] && t.i == 0x300) = true ∧
    faultIs (run 0xF333 ((idle).setI 0xFFE)) (.memoryOutOfRange 0xFFE) = true := by decide

/-- M12, M14. -/
theorem test_FX55 :
    nextIs (run 0xF255 ((withRegs idle [(0, 1), (1, 2), (2, 3), (3, 4)]).setI 0x400))
      (fun t => t.readBytes 0x400 4 == [1, 2, 3, 0] && t.i == 0x400) = true ∧
    faultIs (run 0xFF55 ((idle).setI 0xFF1)) (.memoryOutOfRange 0xFF1) = true := by decide

/-- M15, M17. -/
theorem test_FX65 :
    nextIs (run 0xF265 (((idle).setI 0x300).writeBytes 0x300 [1, 5, 7, 9]))
      (fun t => t.getV 0 == 1 && t.getV 1 == 5 && t.getV 2 == 7 && t.getV 3 == 0) = true ∧
    faultIs (run 0xF065 ((idle).setI 0x1000)) (.memoryOutOfRange 0x1000) = true := by decide

/-! Memory's canonical form, and reset. -/

/-- Writing what an unlisted address reads as takes it off the list. -/
theorem test_memory_canonical :
    (((State.reset.writeByte 0x300 1).writeByte 0x200 2).writeByte 0x300 0).mem = [(0x200, 2)] ∧
    (State.reset.writeByte 0x050 0xF0).mem = [] := by decide

/-- Z1, Z2: glyph 0 of FONT, and a loaded ROM. -/
theorem test_initialize :
    State.reset.readBytes 0x04F 6 = [0, 0xF0, 0x90, 0x90, 0x90, 0xF0] ∧
    (match initCore standardConfig [0x12, 0x00] with
      | .ok s => nextIs (step s) fun t => t.pc == 0x200
      | .error _ => false) = true := by decide

/-! Witnesses: for each statement with hypotheses, a concrete state and operands that meet them all,
at the boundary of each clause's range. -/

/-- A state with something in every part of it that a statement constrains: a register, a byte, a
call in progress, a lit pixel, both timers, one listed input. -/
def busy : State :=
  { (((withRegs (idle [3, 9] 0xA7) [(0, 7), (1, 200), (15, 5)]).setI 0x300).writeByte 0x300 0xC0
      |>.setDT 5).setST 3 with
    sp := 1
    stack := State.reset.stack.set 0 0x1000
    fb := Framebuffer.flip Framebuffer.clear 7 8 }

theorem busy_canonical : busy.MemoryCanonical := by
  show Memory.wf _ _
  decide

theorem busy_bounded : busy.Bounded := ⟨by decide, by decide⟩

theorem witness_DecodedWordEncodesBack : decode 0xDAB5 = .instr (.opDXYN 10 11 5) := by decide

theorem witness_InitializeLeavesTheResetTable :
    ([] : List Byte).length ≤ 3584 ∧ (List.replicate 3584 (0x5A : Byte)).length ≤ 3584 := by
  rw [List.length_replicate]
  decide

/-- An instruction that completes, the last address fetched from, and one that is fatal. -/
theorem witness_StepRunsTheDecodedInstruction :
    (FetchesInstr ((busy.setPc 0xFFE).withFetchWord 16 0x7105) (.op7XNN 1 5) ∧
      ∃ t, exec (.op7XNN 1 5) ((busy.setPc 0xFFE).withFetchWord 16 0x7105).prepared = .next t ∧
        (t.getV 1 == 205) = true) ∧
    (FetchesInstr (busy.withFetchWord 16 0xE19E) (.opEX9E 1) ∧
      exec (.opEX9E 1) (busy.withFetchWord 16 0xE19E).prepared = .fault (.keyIndexOutOfRange 200)) :=
  ⟨⟨fetches (by decide), next_of_nextIs (by decide)⟩,
    ⟨fetches (by decide), fault_of_faultIs (by decide)⟩⟩

/-- An input listed, and none listed, at the last address fetched from. -/
theorem witness_PreparedStateHasKeysWordAndAdvancedPc :
    (busy.setPc 0xFFE).pc.toNat + 1 < 4096 ∧
    (busy.setPc 0xFFE).inputs = ⟨Vector.ofFn fun k => [3, 9].contains k.val, 0xA7⟩ :: [] ∧
    (State.reset.setPc 0xFFE).pc.toNat + 1 < 4096 ∧ (State.reset.setPc 0xFFE).inputs = [] := by decide

theorem witness_FetchFailsExactlyAtTheEndOfMemory :
    4096 ≤ (busy.setPc 0xFFF).pc.toNat + 1 ∧
    step (busy.setPc 0x10FE) = .fault (.invalidFetch 0x10FE) :=
  ⟨by decide, fault_of_faultIs (by decide)⟩

/-- Both values of the parameter, at the last address fetched from. -/
theorem witness_UnknownWordIsReportedAndPassed :
    ((busy.setPc 0xFFE).withFetchWord 16 0x5121).pc.toNat + 1 < 4096 ∧
    0x5121 = ((busy.setPc 0xFFE).withFetchWord 16 0x5121).fetchWord ∧
    (∀ r ∈ opcodeTable, r.accepts 0x5121 = false) ∧
    busy.config.unknownTicksTimers = true ∧
    { busy.config with unknownTicksTimers := false }.unknownTicksTimers = false := by decide

/-- An Ok step of another instruction, one of FX15 where ST counts, one of FX18 where DT counts. -/
theorem witness_TimersCountOncePerStep :
    (∃ t, run 0x00E0 busy = .next t ∧ (t.report == .ok) = true) ∧
    (∃ t, run 0xF115 busy = .next t ∧ (t.report == .ok && t.st == 2) = true) ∧
    (∃ t, run 0xF118 busy = .next t ∧ (t.report == .ok && t.dt == 4) = true) ∧
    FetchesInstr (busy.withFetchWord 16 0x00E0) .op00E0 :=
  ⟨next_of_nextIs (by decide), next_of_nextIs (by decide), next_of_nextIs (by decide),
    fetches (by decide)⟩

theorem witness_TimerWriteIsCountedInItsOwnStep :
    FetchesInstr (busy.withFetchWord 16 0xF115) (.opFX15 1) ∧
    FetchesInstr (busy.withFetchWord 16 0xF118) (.opFX18 1) :=
  ⟨fetches (by decide), fetches (by decide)⟩

theorem witness_PlacedInstructionIsTheOneThatRuns :
    (busy.setPc 0xFFE).MemoryCanonical ∧ (busy.setPc 0xFFE).pc.toNat + 1 < 4096 :=
  ⟨busy_canonical, by decide⟩

/-- Instructions that complete and are none of the listed writers: FX65, DXYN and FX55. For
OnlyCallAndReturnTouchTheStack, ScreenAndMemoryHaveTwoWritersEach, IndexAndTimersHaveTheListedWriters,
NoInstructionWritesKeysOrInstructionRegister and RegistersChangeOnlyByTheirWriters. -/
theorem witness_WholeMachineRules :
    (∃ t, exec (.opFX65 2) busy = .next t ∧ (t.getV 0 == 0xC0) = true) ∧
    (∃ t, exec (.opDXYN 0 1 2) busy = .next t ∧ (t.pixel 7 8 != busy.pixel 7 8) = true) ∧
    (∃ t, exec (.opFX55 1) busy = .next t ∧ (t.readByte 0x300 == 7) = true) :=
  ⟨next_of_nextIs (by decide), next_of_nextIs (by decide), next_of_nextIs (by decide)⟩

/-- For RandomByteReachesOnlyCXNN and KeysReachOnlyTheKeyInstructions. -/
theorem witness_RandomAndKeysReachOnlyTheirInstructions :
    (∀ x nn, Instr.opFX0A 2 ≠ .opCXNN x nn) ∧
    (∀ x, Instr.opCXNN 2 9 ≠ .opEX9E x) ∧ (∀ x, Instr.opCXNN 2 9 ≠ .opEXA1 x) ∧
    (∀ x, Instr.opCXNN 2 9 ≠ .opFX0A x) := by simp

/-- A state that lists memory and has a call in progress, in a step that stores. For
StepKeepsMemoryCanonical and StepKeepsTheReachableBounds. -/
theorem witness_StepKeepsTheInvariants :
    (busy.withFetchWord 16 0xF155).MemoryCanonical ∧ (busy.withFetchWord 16 0xF155).Bounded ∧
    ∃ t, step (busy.withFetchWord 16 0xF155) = .next t ∧ (t.readByte 0x301 == 200) = true :=
  ⟨by show Memory.wf _ _; decide, ⟨by decide, by decide⟩, next_of_nextIs (by decide)⟩

theorem witness_ResetMeetsTheInvariants : ∃ s, initCore standardConfig [0x12, 0x00] = .ok s :=
  ⟨_, rfl⟩

/-- The registers next to VF, and VF itself where a clause takes it. For
SubtractSetsDifferenceAndComparison, ShiftsMoveTheLostBitToVF, AddSetsSumAndCarry and
VFAsOperandFollowsTheStatementOrder. -/
theorem witness_SubtractShiftAndVFOperand :
    (0 : RegNo) ≠ regF ∧ (14 : RegNo) ≠ regF ∧ busy.getV regF = 5 := by decide

/-- n = 0 at any I, a sprite that ends at 0xFFF, and one that passes it by one. -/
theorem witness_DrawTogglesTheSpritesPixels :
    ((0 : Fin 16).val = 0 ∨ (busy.setI 0xFFFF).i.toNat + ((0 : Fin 16).val - 1) ≤ 0xFFF) ∧
    (busy.setI 0xFF1).i.toNat + ((15 : Fin 16).val - 1) = 0xFFF ∧
    0 < (15 : Fin 16).val ∧ 0xFFF < (busy.setI 0xFF2).i.toNat + ((15 : Fin 16).val - 1) := by decide

/-- The sprite's set bits land on lit and on dark pixels of `busy`. -/
theorem witness_SpriteCovers :
    SpriteCovers busy 0 1 1 7 8 ∧ busy.pixel 7 8 = true ∧
    SpriteCovers busy 0 1 1 8 8 ∧ busy.pixel 8 8 = false :=
  ⟨⟨0, 0, by decide⟩, by decide, ⟨0, 1, by decide⟩, by decide⟩

/-- `busy` with every pixel off. -/
def busyClear : State := { busy with fb := Framebuffer.clear }

/-- After a one-row draw at V0, V1 from an I that exists, the state it left meets every premise of the
second draw, which completes. -/
theorem draws_again (s t : State) (h : exec (.opDXYN 0 1 1) s = .next t)
    (hi : s.i.toNat + 1 ≤ memSize) :
    KeepsMemory s t ∧ t.getV 0 = s.getV 0 ∧ t.getV 1 = s.getV 1 ∧ t.i = s.i ∧
      ∃ u, exec (.opDXYN 0 1 1) t = .next u := by
  rcases execDXYN_cases 0 1 1 s with ⟨-, e⟩ | ⟨-, e⟩ <;> rw [e] at h <;> cases h
  refine ⟨fun _ => rfl, State.getV_setV_ne _ _ _ _ (by decide),
    State.getV_setV_ne _ _ _ _ (by decide), rfl, ?_⟩
  rcases execDXYN_cases 0 1 1 ({ s with fb := (s.drawn 0 1 1).1 }.setV regF
    (collisionFlag (s.drawn 0 1 1).2)) with ⟨hn, -⟩ | ⟨-, e'⟩
  · exact absurd (.inr hi) hn
  · exact ⟨_, e'⟩

/-- The second draw from the state that the first one left, from a screen with a pixel on and from a
clear one. -/
theorem witness_DrawingTwiceRestoresTheScreen :
    (∃ t u, exec (.opDXYN 0 1 1) busy = .next t ∧ KeepsScreen t t ∧ KeepsMemory busy t ∧
      t.getV 0 = busy.getV 0 ∧ t.getV 1 = busy.getV 1 ∧ t.i = busy.i ∧
      exec (.opDXYN 0 1 1) t = .next u) ∧
    (∃ t u, exec (.opDXYN 0 1 1) busyClear = .next t ∧ KeepsScreen t t ∧ KeepsMemory busyClear t ∧
      t.getV 0 = busyClear.getV 0 ∧ t.getV 1 = busyClear.getV 1 ∧ t.i = busyClear.i ∧
      exec (.opDXYN 0 1 1) t = .next u) ∧
    (∀ c r, busyClear.pixel c r = false) ∧ SpriteCovers busyClear 0 1 1 7 8 := by
  obtain ⟨t, ht, -⟩ := next_of_nextIs (o := exec (.opDXYN 0 1 1) busy) (p := fun _ => true) (by decide)
  obtain ⟨t', ht', -⟩ :=
    next_of_nextIs (o := exec (.opDXYN 0 1 1) busyClear) (p := fun _ => true) (by decide)
  obtain ⟨hm, h0, h1, hi, u, hu⟩ := draws_again busy t ht (by decide)
  obtain ⟨hm', h0', h1', hi', u', hu'⟩ := draws_again busyClear t' ht' (by decide)
  exact ⟨⟨t, u, ht, fun _ _ => rfl, hm, h0, h1, hi, hu⟩,
    ⟨t', u', ht', fun _ _ => rfl, hm', h0', h1', hi', hu'⟩,
    fun c r => Framebuffer.pixel_clear c r, ⟨0, 0, by decide⟩⟩

/-- The deepest call that succeeds, the shallowest return, the full and the empty stack. For
CallPushesAndJumps, ReturnPopsIntoPc and StackFaultsExactlyWhenFullOrEmpty. -/
theorem witness_CallAndReturn :
    ({ busy with sp := 15 }).sp.val < 16 ∧ 0 < busy.sp.val ∧ ({ busy with sp := 16 }).sp.val = 16 ∧
    State.reset.sp.val = 0 := by decide

theorem witness_CallThenReturnComesBack :
    (∃ t, exec (.op2NNN 0x300) { busy with sp := 15 } = .next t ∧ (t.sp == 16) = true) ∧
    ∃ t v, exec (.op2NNN 0x300) busy = .next t ∧ exec .op00EE t = .next v :=
  ⟨next_of_nextIs (by decide), ⟨_, _, rfl, rfl⟩⟩

/-- Both outcomes of each skip. For ImmediateSkipsAddTwo and RegisterSkipsAddTwo. -/
theorem witness_Skips :
    busy.getV 0 = 7 ∧ busy.getV 0 ≠ 8 ∧ busy.getV 0 = busy.getV 0 ∧ busy.getV 0 ≠ busy.getV 1 := by
  decide

/-- Key 15 pressed and not pressed, and the first key number out of range. -/
theorem witness_KeySkipsTestTheLatchedLevel :
    ((busy.setV 4 15).getV 4).toNat = (15 : Fin 16).val ∧
    ({ busy with key := Vector.replicate 16 true }).key[15] = true ∧ busy.key[15] = false ∧
    15 < ((busy.setV 4 16).getV 4).toNat := by decide

theorem witness_DelayTimerIsReadBeforeItsDecrement :
    FetchesInstr (busy.withFetchWord 16 0xF107) (.opFX07 1) := fetches (by decide)

/-- `busy` with these keys pressed in the latch. -/
def latched (pressed : List Nat) : State :=
  { busy with key := Vector.ofFn fun k => pressed.contains k.val }

/-- Keys 0 and 15 as the lowest pressed key, no key, and the snapshots of both kinds of step. -/
theorem witness_KeyWaitRetriesUntilAKeyIsPressed :
    ((latched [0, 5]).key[(0 : Fin 16)] = true ∧
      ∀ j : Fin 16, j < 0 → (latched [0, 5]).key[j] = false) ∧
    ((latched [15]).key[(15 : Fin 16)] = true ∧
      ∀ j : Fin 16, j < 15 → (latched [15]).key[j] = false) ∧
    (∀ k : Fin 16, busy.key[k] = false) ∧ 2 ≤ (busy.setPc 2).pc.toNat ∧
    (∀ k : Fin 16, (idle).stepInput.keys[k] = false) ∧
    (busy.stepInput.keys[(3 : Fin 16)] = true ∧
      ∀ j : Fin 16, j < 3 → busy.stepInput.keys[j] = false) := by decide

theorem witness_KeyWaitSteps :
    FetchesInstr ((idle).withFetchWord 16 0xF20A) (.opFX0A 2) ∧
    FetchesInstr (busy.withFetchWord 16 0xF20A) (.opFX0A 2) :=
  ⟨fetches (by decide), fetches (by decide)⟩

/-- The last block that exists and the first that does not. For DecimalDigitsAreStoredAtTheIndex,
RegisterBlockIsStoredAtTheIndex and RegisterBlockIsLoadedFromTheIndex. -/
theorem witness_MemoryBlocks :
    (busy.setI 0xFFD).MemoryCanonical ∧
    (busy.setI 0xFFD).i.toNat + 2 ≤ 0xFFF ∧ 0xFFF < (busy.setI 0xFFE).i.toNat + 2 ∧
    (busy.setI 0xFF0).i.toNat + (15 : RegNo).val ≤ 0xFFF ∧
    0xFFF < (busy.setI 0xFF1).i.toNat + (15 : RegNo).val :=
  ⟨busy_canonical, by decide, by decide, by decide, by decide⟩

theorem witness_StoredRegistersAreFetchedBigEndian :
    (∃ t, exec (.opFX55 1) busy = .next t ∧ (t.readByte 0x301 == 200) = true) ∧
    (0 : RegNo).val + 1 < 16 ∧ (0 : RegNo).val + 1 ≤ (1 : RegNo).val ∧
    (0x300 : Word).toNat = busy.i.toNat + (0 : RegNo).val :=
  ⟨next_of_nextIs (by decide), by decide, by decide, by decide⟩

theorem witness_ReadGivesTheLastByteWritten :
    busy.MemoryCanonical ∧ (4095 : Nat) < 4096 ∧ (4095 : Nat) ≠ 0x300 :=
  ⟨busy_canonical, by decide, by decide⟩

/-- Each row of the code table: a fetch past the end, each fatal condition at its boundary, an
instruction with none, and an unknown word. -/
theorem witness_StepOutputsFollowTheCodeTable :
    4096 ≤ (busy.setPc 0xFFF).pc.toNat + 1 ∧
    (FetchesInstr ({ busy with sp := 16 }.withFetchWord 16 0x2300) (.op2NNN 0x300) ∧
      FatalOutput (.op2NNN 0x300) ({ busy with sp := 16 }.withFetchWord 16 0x2300) ⟨3, 0x200⟩) ∧
    (FetchesInstr (State.reset.withFetchWord 16 0x00EE) .op00EE ∧
      FatalOutput .op00EE (State.reset.withFetchWord 16 0x00EE) ⟨4, 0x200⟩) ∧
    (FetchesInstr ((busy.setI 0xFFF).withFetchWord 16 0xD012) (.opDXYN 0 1 2) ∧
      FatalOutput (.opDXYN 0 1 2) ((busy.setI 0xFFF).withFetchWord 16 0xD012) ⟨5, 0xFFF⟩) ∧
    (FetchesInstr ((busy.setI 0xFFE).withFetchWord 16 0xF133) (.opFX33 1) ∧
      FatalOutput (.opFX33 1) ((busy.setI 0xFFE).withFetchWord 16 0xF133) ⟨5, 0xFFE⟩) ∧
    (FetchesInstr ((busy.setV 4 16).withFetchWord 16 0xE49E) (.opEX9E 4) ∧
      FatalOutput (.opEX9E 4) ((busy.setV 4 16).withFetchWord 16 0xE49E) ⟨6, 16⟩) ∧
    (FetchesInstr (busy.withFetchWord 16 0x00E0) .op00E0 ∧
      ∀ o, ¬FatalOutput .op00E0 (busy.withFetchWord 16 0x00E0) o) ∧
    ((busy.withFetchWord 16 0x5121).fetchWord = 0x5121 ∧
      ∀ r ∈ opcodeTable, r.accepts 0x5121 = false) :=
  ⟨by decide, ⟨fetches (by decide), by decide, rfl⟩, ⟨fetches (by decide), by decide, rfl⟩,
    ⟨fetches (by decide), by decide, by decide, rfl⟩, ⟨fetches (by decide), by decide, rfl⟩,
    ⟨fetches (by decide), by decide, by decide⟩, ⟨fetches (by decide), fun _ h => h⟩,
    by decide⟩

/-- F5 and F6 as outputs of the step: the info value is the instruction's own address. -/
theorem test_stack_fault_outputs :
    stepOutput (run 0x2300 { idle with sp := 16 }) = some ⟨3, 0x200⟩ ∧
    stepOutput (run 0x00EE idle) = some ⟨4, 0x200⟩ := by decide

end Sys2Proof.Tests
end

section
/-! Initialize and the reset table (10_state.md R30): the fields of the blank state, what memory reads
as before and after the ROM is copied, and the proof of the table. Addresses are the spec's numerals,
as in the obligation. -/

namespace Sys2Proof.Machine

/-! The blank state. -/

@[simp] theorem State.blank_stack (c : Config) :
    (State.blank c).stack = Vector.replicate 16 0 := rfl

@[simp] theorem State.blank_key (c : Config) :
    (State.blank c).key = Vector.replicate 16 false := rfl

@[simp] theorem State.blank_getV (c : Config) (k : RegNo) : (State.blank c).getV k = 0 :=
  Vector.getElem_replicate ..

@[simp] theorem State.blank_pixel (c : Config) (col : Fin 64) (row : Fin 32) :
    (State.blank c).pixel col row = false := by
  simp [State.pixel, Framebuffer.pixel, State.blank]

/-! The background: the font at 0x050..0x09F (R31), and 0 elsewhere. -/

theorem Memory.background_font (font : Vector Byte fontSize) (k : Fin 80) :
    Memory.background font (0x050 + k) = font[k] := by
  have hin : 0x050 ≤ 0x050 + k.val ∧ 0x050 + k.val < 0x050 + 80 := by omega
  simp [Memory.background, hin]

theorem Memory.background_eq_zero (font : Vector Byte fontSize) {a : Nat}
    (h : a < 0x050 ∨ 0x0A0 ≤ a) : Memory.background font a = 0 := by
  have hout : ¬(0x050 ≤ a ∧ a < 0x050 + 80) := by omega
  exact dif_neg hout

/-! Initialize. -/

/-- Initialize of a ROM that is not too long copies it over the blank state (R250). -/
theorem initCore_of_length_le (c : Config) {rom : List Byte} (h : rom.length ≤ 3584) :
    initCore c rom = .ok ((State.blank c).writeBytes romBase rom) :=
  if_pos (decide_eq_true h)

section
variable (c : Config) {rom : List Byte} (h : rom.length ≤ 3584)
include h

/-- Memory after the copy: the ROM from 0x200, and outside it the background, as the blank state lists
no byte. -/
theorem State.readByte_blank_writeBytes (a : Nat) :
    ((State.blank c).writeBytes romBase rom).readByte a =
      if 0x200 ≤ a ∧ a < 0x200 + rom.length then rom.getD (a - 0x200) 0
      else Memory.background c.font a :=
  State.readByte_writeBytes _ _ _ _ (Nat.add_le_add_left h 0x200) (Memory.wf_nil _)

theorem State.readByte_in_rom (k : Fin rom.length) :
    ((State.blank c).writeBytes romBase rom).readByte (0x200 + k) = rom[k] := by
  rw [State.readByte_blank_writeBytes c h, if_pos (by omega)]
  simp

theorem State.readByte_outside_rom {a : Nat} (ha : a < 0x200 ∨ 0x200 + rom.length ≤ a) :
    ((State.blank c).writeBytes romBase rom).readByte a = Memory.background c.font a := by
  rw [State.readByte_blank_writeBytes c h, if_neg (by omega)]

theorem State.readByte_in_font (k : Fin 80) :
    ((State.blank c).writeBytes romBase rom).readByte (0x050 + k) = c.font[k] := by
  rw [State.readByte_outside_rom c h (by omega), Memory.background_font]

/-- Outside both the ROM and the font area every byte is 0. -/
theorem State.readByte_outside_rom_and_font {a : Nat} (hrom : a < 0x200 ∨ 0x200 + rom.length ≤ a)
    (hfont : a < 0x050 ∨ 0x0A0 ≤ a) :
    ((State.blank c).writeBytes romBase rom).readByte a = 0 := by
  rw [State.readByte_outside_rom c h hrom, Memory.background_eq_zero _ hfont]

end

/-- Settles O6: initialize is the blank state with the ROM copied in. The copy leaves every field but
memory as it is, and an address lies in the ROM, in the font area, or in neither. -/
theorem initializeLeavesTheResetTable : Obligations.InitializeLeavesTheResetTable := by
  intro c rom h
  refine ⟨_, initCore_of_length_le c h, by simp, State.writeBytes_i .., State.writeBytes_pc ..,
    State.writeBytes_sp .., by simp, State.writeBytes_dt .., State.writeBytes_st .., by simp, by simp,
    State.writeBytes_ir .., ?belowFont, State.readByte_in_font c h, ?betweenFontAndRom,
    State.readByte_in_rom c h, ?afterRom⟩
  case belowFont =>
    exact fun a ha => State.readByte_outside_rom_and_font c h (by omega) (by omega)
  case betweenFontAndRom =>
    exact fun a hfont hrom => State.readByte_outside_rom_and_font c h (by omega) (by omega)
  case afterRom =>
    exact fun a hrom _ => State.readByte_outside_rom_and_font c h (by omega) (by omega)

end Sys2Proof.Machine
end

section
/-! The six fields as the source's slice expressions (30_encoding.md R76). -/

namespace Sys2Proof.Machine

/-- Settles O4: shifting right divides and masking keeps a remainder, so the slices are the quotients
and remainders of `fieldsOf_toNat`, from which the overlaps follow. -/
theorem fieldsAreTheSlicesOfTheWord : Obligations.FieldsAreTheSlicesOfTheWord := by
  intro w
  obtain ⟨hclass, hx, hy, hn, hnn, hnnn⟩ := fieldsOf_toNat w
  have nibbleMask (a : Nat) : a &&& 0xF = a % 16 := Nat.and_two_pow_sub_one_eq_mod a 4
  have byteMask (a : Nat) : a &&& 0xFF = a % 256 := Nat.and_two_pow_sub_one_eq_mod a 8
  have addressMask (a : Nat) : a &&& 0xFFF = a % 4096 := Nat.and_two_pow_sub_one_eq_mod a 12
  rw [nibbleMask, nibbleMask, nibbleMask, byteMask, addressMask]
  simp only [Nat.shiftRight_eq_div_pow]
  refine ⟨hclass, hx, hy, hn, hnn, hnnn, ?nnOverlap, ?nnnOverlap⟩
  case nnOverlap => omega
  case nnnOverlap => omega

end Sys2Proof.Machine
end

section
/-! Decoding an encoded instruction gives it back (30_encoding.md R79-R82): the decoding half of every
instruction's statement, whose word is `encode` of the instruction by unfolding. -/

namespace Sys2Proof

/-- Each constructor's fields come out of its format, and the dispatch picks the constructor. -/
theorem decode_encode (i : Instr) : decode (encode i) = .instr i := by
  rw [decode_eq_instr]
  cases i with
  | op00E0 | op00EE => rfl
  | op1NNN | op2NNN | opANNN | opBNNN => simp [encode, dispatch, fieldsOf_formatNNN]
  | op3XNN | op4XNN | op6XNN | op7XNN | opCXNN => simp [encode, dispatch, fieldsOf_formatXNN]
  | op5XY0 | op9XY0 | opDXYN => simp [encode, dispatch, fieldsOf_formatXYN]
  | op8XY0 | op8XY1 | op8XY2 | op8XY3 | op8XY4 | op8XY5 | op8XY6 | op8XY7 | op8XYE =>
    simp [encode, dispatch, dispatchClass8, fieldsOf_formatXYN]
  | opEX9E | opEXA1 => simp [encode, dispatch, dispatchClassE, fieldsOf_formatXNN]
  | opFX07 | opFX0A | opFX15 | opFX18 | opFX1E | opFX29 | opFX33 | opFX55 | opFX65 =>
    simp [encode, dispatch, dispatchClassF, fieldsOf_formatXNN]

end Sys2Proof
end

section
/-! Jumps and skips (41_control_flow.md): the frame of a write to PC, and what a skip does to PC. -/

open Sys2Proof.Claims

namespace Sys2Proof.Machine

theorem writesOnlyPc_setPc (s : State) (w : Word) : WritesOnlyPc s (s.setPc w) :=
  ⟨fun _ => rfl, rfl, ⟨rfl, fun _ => rfl⟩, ⟨rfl, rfl⟩, ⟨fun _ => rfl, rfl⟩, fun _ _ => rfl,
    fun _ => rfl, rfl, rfl, rfl, rfl, rfl⟩

/-- A skip is a write to PC, of the value already there if it is not taken. -/
theorem writesOnlyPc_skipIf (s : State) (c : Bool) : WritesOnlyPc s (s.skipIf c) :=
  writesOnlyPc_setPc ..

/-- What a skip's statement asks: an instruction that runs `skipIf c` is taken when `c` is true and
leaves PC alone when `c` is false. -/
theorem skips_of_exec_eq {i : Instr} {s : State} {c : Bool} (he : exec i s = .next (s.skipIf c))
    {taken notTaken : Prop} (ht : taken → c = true) (hn : notTaken → c = false) :
    ∃ t, exec i s = .next t ∧ WritesOnlyPc s t ∧
      (taken → t.pc.toNat = (s.pc.toNat + 2) % 65536) ∧ (notTaken → KeepsPc s t) := by
  refine ⟨_, he, writesOnlyPc_skipIf s c, fun h => ?taken, fun h => ?notTaken⟩
  case taken => simp [ht h, BitVec.toNat_add]
  case notTaken => simp [KeepsPc, hn h]

/-- Settles O37: both jumps are one write to PC, of nnn or of the sum that cannot wrap. -/
theorem jumpsWriteTheTargetToPc : Obligations.JumpsWriteTheTargetToPc := fun s nnn =>
  ⟨decode_encode (.op1NNN nnn), decode_encode (.opBNNN nnn),
    ⟨_, rfl, zextAddr_toNat nnn, writesOnlyPc_setPc ..⟩,
    ⟨_, rfl, s.offsetTarget_toNat nnn, writesOnlyPc_setPc ..⟩⟩

/-- Settles O42: 3XNN and 4XNN are `skipIf` of the comparison V[x] = nn and of its negation. -/
theorem immediateSkipsAddTwo : Obligations.ImmediateSkipsAddTwo := fun s x nn =>
  ⟨decode_encode (.op3XNN x nn), decode_encode (.op4XNN x nn),
    skips_of_exec_eq (c := s.getV x == nn) rfl beq_iff_eq.mpr beq_false_of_ne,
    skips_of_exec_eq (c := s.getV x != nn) rfl bne_iff_ne.mpr (by simp)⟩

end Sys2Proof.Machine
end

section
/-! Loads, moves and logic (42_alu.md R142-R147): the frame of a write to one register, and the
instructions that are one such write. -/

open Sys2Proof.Claims

namespace Sys2Proof.Machine

theorem writesOnlyRegs_setV (s : State) (x : RegNo) (b : Byte) : WritesOnlyRegs [x] s (s.setV x b) :=
  ⟨fun k hk => s.getV_setV_ne x k b (List.ne_of_not_mem_cons hk), rfl, rfl, ⟨rfl, fun _ => rfl⟩,
    ⟨rfl, rfl⟩, ⟨fun _ => rfl, rfl⟩, fun _ _ => rfl, fun _ => rfl, rfl, rfl, rfl, rfl, rfl⟩

/-- What the statement of a computed value asks: an instruction that runs `setV x b` completes with
V[x] the number `b` stands for, and writes nothing else. -/
theorem writesRegister_of_exec_eq {i : Instr} {s : State} {x : RegNo} {b : Byte} {n : Nat}
    (he : exec i s = .next (s.setV x b)) (hb : b.toNat = n) :
    ∃ t, exec i s = .next t ∧ (t.getV x).toNat = n ∧ WritesOnlyRegs [x] s t :=
  ⟨_, he, by rw [State.getV_setV_same, hb], writesOnlyRegs_setV s x b⟩

/-- Settles O27: each is one write to V[x], of nn, of the byte sum that wraps at 256, or of V[y]; so
x = F is a destination like any other. -/
theorem loadAddAndMoveWriteTheirRegister : Obligations.LoadAddAndMoveWriteTheirRegister :=
  fun _ x y nn =>
  ⟨decode_encode (.op6XNN x nn), decode_encode (.op7XNN x nn), decode_encode (.op8XY0 x y),
    ⟨_, rfl, State.getV_setV_same .., writesOnlyRegs_setV ..⟩,
    writesRegister_of_exec_eq rfl (BitVec.toNat_add ..),
    ⟨_, rfl, State.getV_setV_same .., writesOnlyRegs_setV ..⟩⟩

/-- Settles O28: each is one write to V[x], of the two bytes combined bit by bit, and VF stands in that
write's frame unless x = F. -/
theorem logicWritesTheRegisterAndNoFlag : Obligations.LogicWritesTheRegisterAndNoFlag :=
  fun _ x y =>
  ⟨decode_encode (.op8XY1 x y), decode_encode (.op8XY2 x y), decode_encode (.op8XY3 x y),
    writesRegister_of_exec_eq rfl (BitVec.toNat_or ..),
    writesRegister_of_exec_eq rfl (BitVec.toNat_and ..),
    writesRegister_of_exec_eq rfl (BitVec.toNat_xor ..)⟩

end Sys2Proof.Machine
end

section
/-! Clearing the screen (43_display.md R171). -/

open Sys2Proof.Claims

namespace Sys2Proof.Machine

/-- 00E0 is one write to the framebuffer. -/
theorem exec_op00E0 (s : State) : exec .op00E0 s = .next { s with fb := Framebuffer.clear } := rfl

/-- The frame of a write to the framebuffer, whatever is written: everything but the screen. -/
theorem keepsAllButScreen_setFb (s : State) (fb : Framebuffer) :
    let t := { s with fb := fb }
    KeepsRegs s t ∧ KeepsPc s t ∧ KeepsIndex s t ∧ KeepsStack s t ∧ KeepsTimers s t ∧
      KeepsLatches s t ∧ KeepsMemory s t ∧ KeepsHost s t :=
  ⟨fun _ => rfl, rfl, rfl, ⟨rfl, fun _ => rfl⟩, ⟨rfl, rfl⟩, ⟨fun _ => rfl, rfl⟩, fun _ => rfl,
    rfl, rfl, rfl, rfl, rfl⟩

/-- Settles O34: 00E0 writes the clear framebuffer, whose pixels are all off, and VF stands in that
write's frame. -/
theorem clearTurnsEveryPixelOff : Obligations.ClearTurnsEveryPixelOff :=
  ⟨decode_encode .op00E0, fun s =>
    ⟨_, exec_op00E0 s, Framebuffer.pixel_clear, keepsAllButScreen_setFb s _⟩⟩

end Sys2Proof.Machine
end

section
/-! Reading the delay timer and waiting for a key (44_keys_timers.md R188, R189): what FX0A runs with
and without a key pressed, and a whole step of an instruction that completes. -/

open Sys2Proof.Claims

namespace Sys2Proof.Machine

/-- A step whose instruction completes: its result, counted down and reported Ok (R107, R108). -/
theorem step_of_fetchesInstr {s t : State} {i : Instr} (hf : FetchesInstr s i)
    (he : exec i s.prepared = .next t) : step s = .next (t.countDown.setReport .ok) := by
  obtain ⟨hv, hd⟩ := hf
  rw [step_of_decode s i hv hd, he, finishStep]

theorem exec_opFX07 (x : RegNo) (s : State) : exec (.opFX07 x) s = .next (s.setV x s.dt) := rfl

/-- With a key pressed FX0A is a register write. -/
theorem exec_opFX0A_of_lowest (x : RegNo) {s : State} {k : Fin 16} (hk : s.key[k] = true)
    (hlow : ∀ j : Fin 16, j < k → s.key[j] = false) :
    exec (.opFX0A x) s = .next (s.setV x (BitVec.ofNat 8 k)) := by
  have hfirst : firstPressed s.key = some k := (firstPressed_eq_some _ _).2 ⟨hk, hlow⟩
  simp [exec, execFX0A, hfirst, State.keyWait]

/-- With no key pressed FX0A is a jump to itself. -/
theorem exec_opFX0A_of_noKey (x : RegNo) {s : State} (hnone : ∀ k : Fin 16, s.key[k] = false) :
    exec (.opFX0A x) s = .next (s.setPc s.instrAddress) := by
  have hfirst : firstPressed s.key = none := (firstPressed_eq_none _).2 hnone
  simp [exec, execFX0A, hfirst, State.keyWait, State.instrAddress]

/-- A key number fits in a register. -/
theorem keyByte_toNat (k : Fin 16) : (BitVec.ofNat 8 k : Byte).toNat = k :=
  Nat.mod_eq_of_lt (by omega)

theorem State.instrAddress_toNat {s : State} (h : 2 ≤ s.pc.toNat) :
    s.instrAddress.toNat = s.pc.toNat - 2 :=
  BitVec.toNat_sub_of_le (BitVec.le_def.2 h)

/-- PC does not wrap past an instruction that can be fetched. -/
theorem prepared_pc_toNat_of_fetchesInstr {s : State} {i : Instr} (h : FetchesInstr s i) :
    s.prepared.pc.toNat = s.pc.toNat + 2 := by
  obtain ⟨hv, -⟩ := h
  rw [State.prepared_pc]
  bv_omega

/-- Settles O45: FX07 writes V[x] in the execute phase, before the step counts the timers down. -/
theorem delayTimerIsReadBeforeItsDecrement : Obligations.DelayTimerIsReadBeforeItsDecrement :=
  fun s x =>
  ⟨decode_encode (.opFX07 x),
    ⟨_, exec_opFX07 x s, State.getV_setV_same .., writesOnlyRegs_setV ..⟩,
    fun hf => ⟨_, step_of_fetchesInstr hf (exec_opFX07 x s.prepared), State.getV_setV_same ..,
      tick_toNat s.dt⟩⟩

/-- Settles O46: FX0A is a register write or a jump to itself, by whether its scan of the key latch
finds a key. A step latches its snapshot before it executes, so it is the snapshot that decides. -/
theorem keyWaitRetriesUntilAKeyIsPressed : Obligations.KeyWaitRetriesUntilAKeyIsPressed := by
  intro s x
  refine ⟨decode_encode (.opFX0A x), ?execKey, ?execNoKey, ?stepNoKey, ?stepKey⟩
  case execKey =>
    exact fun k hk hlow =>
      writesRegister_of_exec_eq (exec_opFX0A_of_lowest x hk hlow) (keyByte_toNat k)
  case execNoKey =>
    exact fun hnone =>
      ⟨_, exec_opFX0A_of_noKey x hnone, writesOnlyPc_setPc .., State.instrAddress_toNat⟩
  case stepNoKey =>
    intro hf hnone
    have he := exec_opFX0A_of_noKey x (s := s.prepared) hnone
    exact ⟨_, step_of_fetchesInstr hf he, rfl, State.prepared_instrAddress s, fun _ => rfl,
      tick_toNat s.dt, tick_toNat s.st⟩
  case stepKey =>
    intro k hf hk hlow
    obtain ⟨t, he, hv, hregs, hpc, -⟩ := writesRegister_of_exec_eq
      (exec_opFX0A_of_lowest x (s := s.prepared) hk hlow) (keyByte_toNat k)
    have hpc' := (congrArg BitVec.toNat hpc).trans (prepared_pc_toNat_of_fetchesInstr hf)
    exact ⟨_, step_of_fetchesInstr hf he, rfl, hpc', hv, hregs⟩

end Sys2Proof.Machine
end

section
/-! Loading the index register (45_index_memory.md R201, R203): the frame of a write to I. -/

open Sys2Proof.Claims

namespace Sys2Proof.Machine

theorem writesOnlyIndex_setI (s : State) (w : Word) : WritesOnlyIndex s (s.setI w) :=
  ⟨fun _ => rfl, rfl, ⟨rfl, fun _ => rfl⟩, ⟨rfl, rfl⟩, ⟨fun _ => rfl, rfl⟩, fun _ _ => rfl,
    fun _ => rfl, rfl, rfl, rfl, rfl, rfl⟩

theorem exec_opANNN (nnn : Addr12) (s : State) :
    exec (.opANNN nnn) s = .next (s.setI (zextAddr nnn)) := rfl

theorem exec_opFX29 (x : RegNo) (s : State) :
    exec (.opFX29 x) s = .next (s.setI (glyphAddress (s.getV x))) := rfl

/-- Settles O47: both are one write to I, of nnn or of the glyph's address. That address takes all of
V[x], as 0x050 + 255 * 5 still fits in 16 bits. -/
theorem indexLoadsAddressOrGlyph : Obligations.IndexLoadsAddressOrGlyph := fun s nnn x =>
  ⟨decode_encode (.opANNN nnn), decode_encode (.opFX29 x),
    ⟨_, exec_opANNN nnn s, zextAddr_toNat nnn, writesOnlyIndex_setI ..⟩,
    ⟨_, exec_opFX29 x s, glyphAddress_toNat (s.getV x), writesOnlyIndex_setI ..⟩⟩

end Sys2Proof.Machine
end

section
/-! RomTooLarge (60_exceptions.md R229): initialize of a ROM that is too long. -/

namespace Sys2Proof.Machine

/-- The complement of `initCore_of_length_le`: a longer ROM is refused (R251). -/
theorem initCore_of_lt_length (c : Config) {rom : List Byte} (h : 3584 < rom.length) :
    initCore c rom = .error .romTooLarge :=
  if_neg (ne_true_of_eq_false (decide_eq_false (Nat.not_le.2 h)))

/-- Settles O7: a ROM fits or is too long, the two cases give different answers, and so each answer
tells which case it was. -/
theorem romTooLargeExactlyAbove3584Bytes : Obligations.RomTooLargeExactlyAbove3584Bytes := by
  intro c rom
  rcases Nat.lt_or_ge 3584 rom.length with htooLong | hfits
  · simp [initCore_of_lt_length c htooLong, htooLong]
  · simp [initCore_of_length_le c hfits, hfits]

end Sys2Proof.Machine
end

section
/-! StackOverflow and StackUnderflow (60_exceptions.md R223, R224): how a call on a full stack and a
return on an empty one end, and that no other call or return ends in a fault. -/

namespace Sys2Proof.Machine

section
variable {s : State} {nnn : Addr12} {f : Fault}

theorem exec_op2NNN_of_full (h : s.sp.val = 16) :
    exec (.op2NNN nnn) s = .fault (.stackOverflow s.instrAddress) := by
  rcases exec2NNN_cases nnn s with ⟨-, he⟩ | ⟨hroom, -⟩
  · exact he
  · omega

theorem full_of_exec_op2NNN_fault (h : exec (.op2NNN nnn) s = .fault f) : s.sp.val = 16 := by
  rcases exec2NNN_cases nnn s with ⟨hfull, -⟩ | ⟨-, t, -, he⟩
  · exact hfull
  · cases he.symm.trans h

theorem exec_op00EE_of_empty (h : s.sp.val = 0) :
    exec .op00EE s = .fault (.stackUnderflow s.instrAddress) := by
  rcases exec00EE_cases s with ⟨-, he⟩ | ⟨hused, -⟩
  · exact he
  · omega

theorem empty_of_exec_op00EE_fault (h : exec .op00EE s = .fault f) : s.sp.val = 0 := by
  rcases exec00EE_cases s with ⟨hempty, -⟩ | ⟨-, w, t, -, he⟩
  · exact hempty
  · cases he.symm.trans h

end

/-- Settles O40: the full and the empty stack determine the fault, only they allow one, and a fault is
not a next state. -/
theorem stackFaultsExactlyWhenFullOrEmpty : Obligations.StackFaultsExactlyWhenFullOrEmpty := by
  intro s nnn
  refine ⟨⟨?overflows, ?full⟩, ⟨?underflows, ?empty⟩, ?callEnds, ?returnEnds⟩
  case overflows => exact fun h => ⟨_, exec_op2NNN_of_full h⟩
  case full => exact fun ⟨_, h⟩ => full_of_exec_op2NNN_fault h
  case underflows => exact fun h => ⟨_, exec_op00EE_of_empty h⟩
  case empty => exact fun ⟨_, h⟩ => empty_of_exec_op00EE_fault h
  case callEnds => exact fun h t => by simp [exec_op2NNN_of_full h]
  case returnEnds => exact fun h t => by simp [exec_op00EE_of_empty h]

end Sys2Proof.Machine
end

section
/-! Encoding and decoding are inverse, and the rows of the table divide the words (30_encoding.md
R77, R79-R84): a word that decodes is put together again from its fields, and a row accepts exactly
the encodings of its instruction. -/

namespace Sys2Proof

/-- Settles O1: the bytes of the encoded word join to that word, which decodes to the instruction.
-/
theorem encodedInstructionDecodesToItself : Obligations.EncodedInstructionDecodesToItself := by
  refine fun i => ⟨decode_encode i, fun rest => ?_⟩
  show decodeBytes (hiByte (encode i) :: loByte (encode i) :: rest) = .ok (i, rest)
  rw [decodeBytes, joinBytes_hiByte_loByte, decode_encode]

/-! Formats with the class nibble, and the sub-opcode, known. -/

theorem formatNNN_of_opClass {w : Word} {c : BitVec 4} (h : (fieldsOf w).opClass = c) :
    formatNNN c (fieldsOf w).nnn = w := h ▸ formatNNN_fieldsOf w

theorem formatXNN_of_opClass {w : Word} {c : BitVec 4} (h : (fieldsOf w).opClass = c) :
    formatXNN c (fieldsOf w).x.toFin (fieldsOf w).nn = w := h ▸ formatXNN_fieldsOf w

theorem formatXYN_of_opClass {w : Word} {c : BitVec 4} (h : (fieldsOf w).opClass = c) :
    formatXYN c (fieldsOf w).x.toFin (fieldsOf w).y.toFin (fieldsOf w).n = w :=
  h ▸ formatXYN_fieldsOf w

theorem formatXNN_of_nn {w : Word} {c : BitVec 4} {nn : Byte}
    (h : (fieldsOf w).opClass = c ∧ (fieldsOf w).nn = nn) :
    formatXNN c (fieldsOf w).x.toFin nn = w := h.2 ▸ formatXNN_of_opClass h.1

theorem formatXYN_of_n {w : Word} {c n : BitVec 4}
    (h : (fieldsOf w).opClass = c ∧ (fieldsOf w).n = n) :
    formatXYN c (fieldsOf w).x.toFin (fieldsOf w).y.toFin n = w := h.2 ▸ formatXYN_of_opClass h.1

/-! What each secondary dispatch answers. -/

theorem encode_of_dispatchClass0 {w : Word} {i : Instr} (hc : (fieldsOf w).opClass = 0)
    (h : dispatchClass0 (fieldsOf w).nnn = some i) : encode i = w := by
  have hw := formatNNN_of_opClass hc
  unfold dispatchClass0 at h
  split at h
  next hn => cases h; rw [← hw, hn]; rfl
  next =>
    split at h
    next hn => cases h; rw [← hw, hn]; rfl
    next => cases h

theorem encode_of_dispatchClass8 {w : Word} {i : Instr} (hc : (fieldsOf w).opClass = 8)
    (h : dispatchClass8 (fieldsOf w).x.toFin (fieldsOf w).y.toFin (fieldsOf w).n = some i) :
    encode i = w := by
  unfold dispatchClass8 at h
  split at h
  case h_10 => cases h
  all_goals
    rename_i hn
    cases h
    exact formatXYN_of_n ⟨hc, BitVec.eq_of_toNat_eq hn⟩

theorem encode_of_dispatchClassE {w : Word} {i : Instr} (hc : (fieldsOf w).opClass = 0xE)
    (h : dispatchClassE (fieldsOf w).x.toFin (fieldsOf w).nn = some i) : encode i = w := by
  unfold dispatchClassE at h
  split at h
  next hn => cases h; exact formatXNN_of_nn ⟨hc, hn⟩
  next =>
    split at h
    next hn => cases h; exact formatXNN_of_nn ⟨hc, hn⟩
    next => cases h

theorem encode_of_dispatchClassF {w : Word} {i : Instr} (hc : (fieldsOf w).opClass = 0xF)
    (h : dispatchClassF (fieldsOf w).x.toFin (fieldsOf w).nn = some i) : encode i = w := by
  unfold dispatchClassF at h
  repeat
    split at h
    next hn => cases h; exact formatXNN_of_nn ⟨hc, hn⟩
  cases h

/-- Whatever the dispatch answers for a word's fields has that word as its encoding. -/
theorem encode_of_dispatch {w : Word} {i : Instr} (h : dispatch (fieldsOf w) = some i) :
    encode i = w := by
  have hclass {k : BitVec 4} (hk : (fieldsOf w).opClass.toNat = k.toNat) :
      (fieldsOf w).opClass = k := BitVec.eq_of_toNat_eq hk
  unfold dispatch at h
  split at h
  case h_1 hk => exact encode_of_dispatchClass0 (hclass hk) h
  case h_9 hk => exact encode_of_dispatchClass8 (hclass hk) h
  case h_15 hk => exact encode_of_dispatchClassE (hclass hk) h
  case h_2 hk | h_3 hk | h_11 hk | h_12 hk => cases h; exact formatNNN_of_opClass (hclass hk)
  case h_4 hk | h_5 hk | h_7 hk | h_8 hk | h_13 hk =>
    cases h; exact formatXNN_of_opClass (hclass hk)
  case h_6 hk | h_10 hk =>
    split at h
    next hn => cases h; exact formatXYN_of_n ⟨hclass hk, hn⟩
    next => cases h
  case h_14 hk => cases h; exact formatXYN_of_opClass (hclass hk)
  case h_16 =>
    refine encode_of_dispatchClassF (hclass ?_) h
    have := (fieldsOf w).opClass.isLt
    show (fieldsOf w).opClass.toNat = 15
    simp only [imp_false] at *
    omega

/-- Settles O2: decoding is the dispatch on the word's fields, each branch of which fixes the digits
that its instruction's format fixes. -/
theorem decodedWordEncodesBack : Obligations.DecodedWordEncodesBack := fun w i h =>
  encode_of_dispatch ((decode_eq_instr w i).1 h)

end Sys2Proof
end

section
/-! The rows of the table (30_encoding.md R83). -/

namespace Sys2Proof

/-! What a row's mask selects, for the three masks with operands. -/

theorem formatNNN_inj {c d : BitVec 4} {a b : Addr12} (h : formatNNN c a = formatNNN d b) :
    c = d ∧ a = b := by
  obtain ⟨hc, ha⟩ := fieldsOf_formatNNN c a
  obtain ⟨hd, hb⟩ := fieldsOf_formatNNN d b
  rw [h] at hc ha
  exact ⟨hc.symm.trans hd, ha.symm.trans hb⟩

theorem opClass_of_accepts {w : Word} (c : BitVec 4)
    (h : OpcodeRow.accepts ⟨formatNNN c 0, 0xF000⟩ w = true) : (fieldsOf w).opClass = c := by
  rw [OpcodeRow.accepts, beq_iff_eq, and_mask_class] at h
  exact (formatNNN_inj h).1

theorem opClass_n_of_accepts {w : Word} (c n : BitVec 4)
    (h : OpcodeRow.accepts ⟨formatNNN c (n.setWidth 12), 0xF00F⟩ w = true) :
    (fieldsOf w).opClass = c ∧ (fieldsOf w).n = n := by
  rw [OpcodeRow.accepts, beq_iff_eq, and_mask_class_n] at h
  obtain ⟨hc, hn⟩ := formatNNN_inj h
  exact ⟨hc, by bv_omega⟩

theorem opClass_nn_of_accepts {w : Word} (c : BitVec 4) (nn : Byte)
    (h : OpcodeRow.accepts ⟨formatNNN c (nn.setWidth 12), 0xF0FF⟩ w = true) :
    (fieldsOf w).opClass = c ∧ (fieldsOf w).nn = nn := by
  rw [OpcodeRow.accepts, beq_iff_eq, and_mask_class_nn] at h
  obtain ⟨hc, hn⟩ := formatNNN_inj h
  exact ⟨hc, by bv_omega⟩

theorem word_of_accepts {w v : Word} (h : OpcodeRow.accepts ⟨v, 0xFFFF⟩ w = true) : w = v := by
  rwa [OpcodeRow.accepts, beq_iff_eq, show (0xFFFF : Word) = BitVec.allOnes 16 from rfl,
    BitVec.and_allOnes] at h

/-! Rows and instructions. -/

/-- The word of an instruction matches its row. -/
theorem row_accepts_encode (i : Instr) : i.row.accepts (encode i) = true := by
  cases i with
  | op00E0 => exact Laws.MatchesRow.op00E0
  | op00EE => exact Laws.MatchesRow.op00EE
  | op1NNN nnn => exact Laws.MatchesRow.op1NNN nnn
  | op2NNN nnn => exact Laws.MatchesRow.op2NNN nnn
  | op3XNN x nn => exact Laws.MatchesRow.op3XNN x nn
  | op4XNN x nn => exact Laws.MatchesRow.op4XNN x nn
  | op5XY0 x y => exact Laws.MatchesRow.op5XY0 x y
  | op6XNN x nn => exact Laws.MatchesRow.op6XNN x nn
  | op7XNN x nn => exact Laws.MatchesRow.op7XNN x nn
  | op8XY0 x y => exact Laws.MatchesRow.op8XY0 x y
  | op8XY1 x y => exact Laws.MatchesRow.op8XY1 x y
  | op8XY2 x y => exact Laws.MatchesRow.op8XY2 x y
  | op8XY3 x y => exact Laws.MatchesRow.op8XY3 x y
  | op8XY4 x y => exact Laws.MatchesRow.op8XY4 x y
  | op8XY5 x y => exact Laws.MatchesRow.op8XY5 x y
  | op8XY6 x y => exact Laws.MatchesRow.op8XY6 x y
  | op8XY7 x y => exact Laws.MatchesRow.op8XY7 x y
  | op8XYE x y => exact Laws.MatchesRow.op8XYE x y
  | op9XY0 x y => exact Laws.MatchesRow.op9XY0 x y
  | opANNN nnn => exact Laws.MatchesRow.opANNN nnn
  | opBNNN nnn => exact Laws.MatchesRow.opBNNN nnn
  | opCXNN x nn => exact Laws.MatchesRow.opCXNN x nn
  | opDXYN x y n => exact Laws.MatchesRow.opDXYN x y n
  | opEX9E x => exact Laws.MatchesRow.opEX9E x
  | opEXA1 x => exact Laws.MatchesRow.opEXA1 x
  | opFX07 x => exact Laws.MatchesRow.opFX07 x
  | opFX0A x => exact Laws.MatchesRow.opFX0A x
  | opFX15 x => exact Laws.MatchesRow.opFX15 x
  | opFX18 x => exact Laws.MatchesRow.opFX18 x
  | opFX1E x => exact Laws.MatchesRow.opFX1E x
  | opFX29 x => exact Laws.MatchesRow.opFX29 x
  | opFX33 x => exact Laws.MatchesRow.opFX33 x
  | opFX55 x => exact Laws.MatchesRow.opFX55 x
  | opFX65 x => exact Laws.MatchesRow.opFX65 x

/-- A word that a row accepts is the encoding of an instruction of that row. -/
theorem exists_encode_of_accepts {w : Word} (i : Instr) (h : i.row.accepts w = true) :
    ∃ j, encode j = w ∧ j.row = i.row := by
  cases i with
  | op00E0 => exact ⟨.op00E0, (word_of_accepts h).symm, rfl⟩
  | op00EE => exact ⟨.op00EE, (word_of_accepts h).symm, rfl⟩
  | op1NNN => exact ⟨.op1NNN _, formatNNN_of_opClass (opClass_of_accepts 0x1 h), rfl⟩
  | op2NNN => exact ⟨.op2NNN _, formatNNN_of_opClass (opClass_of_accepts 0x2 h), rfl⟩
  | op3XNN => exact ⟨.op3XNN _ _, formatXNN_of_opClass (opClass_of_accepts 0x3 h), rfl⟩
  | op4XNN => exact ⟨.op4XNN _ _, formatXNN_of_opClass (opClass_of_accepts 0x4 h), rfl⟩
  | op5XY0 => exact ⟨.op5XY0 _ _, formatXYN_of_n (opClass_n_of_accepts 0x5 0x0 h), rfl⟩
  | op6XNN => exact ⟨.op6XNN _ _, formatXNN_of_opClass (opClass_of_accepts 0x6 h), rfl⟩
  | op7XNN => exact ⟨.op7XNN _ _, formatXNN_of_opClass (opClass_of_accepts 0x7 h), rfl⟩
  | op8XY0 => exact ⟨.op8XY0 _ _, formatXYN_of_n (opClass_n_of_accepts 0x8 0x0 h), rfl⟩
  | op8XY1 => exact ⟨.op8XY1 _ _, formatXYN_of_n (opClass_n_of_accepts 0x8 0x1 h), rfl⟩
  | op8XY2 => exact ⟨.op8XY2 _ _, formatXYN_of_n (opClass_n_of_accepts 0x8 0x2 h), rfl⟩
  | op8XY3 => exact ⟨.op8XY3 _ _, formatXYN_of_n (opClass_n_of_accepts 0x8 0x3 h), rfl⟩
  | op8XY4 => exact ⟨.op8XY4 _ _, formatXYN_of_n (opClass_n_of_accepts 0x8 0x4 h), rfl⟩
  | op8XY5 => exact ⟨.op8XY5 _ _, formatXYN_of_n (opClass_n_of_accepts 0x8 0x5 h), rfl⟩
  | op8XY6 => exact ⟨.op8XY6 _ _, formatXYN_of_n (opClass_n_of_accepts 0x8 0x6 h), rfl⟩
  | op8XY7 => exact ⟨.op8XY7 _ _, formatXYN_of_n (opClass_n_of_accepts 0x8 0x7 h), rfl⟩
  | op8XYE => exact ⟨.op8XYE _ _, formatXYN_of_n (opClass_n_of_accepts 0x8 0xE h), rfl⟩
  | op9XY0 => exact ⟨.op9XY0 _ _, formatXYN_of_n (opClass_n_of_accepts 0x9 0x0 h), rfl⟩
  | opANNN => exact ⟨.opANNN _, formatNNN_of_opClass (opClass_of_accepts 0xA h), rfl⟩
  | opBNNN => exact ⟨.opBNNN _, formatNNN_of_opClass (opClass_of_accepts 0xB h), rfl⟩
  | opCXNN => exact ⟨.opCXNN _ _, formatXNN_of_opClass (opClass_of_accepts 0xC h), rfl⟩
  | opDXYN => exact ⟨.opDXYN _ _ _, formatXYN_of_opClass (opClass_of_accepts 0xD h), rfl⟩
  | opEX9E => exact ⟨.opEX9E _, formatXNN_of_nn (opClass_nn_of_accepts 0xE 0x9E h), rfl⟩
  | opEXA1 => exact ⟨.opEXA1 _, formatXNN_of_nn (opClass_nn_of_accepts 0xE 0xA1 h), rfl⟩
  | opFX07 => exact ⟨.opFX07 _, formatXNN_of_nn (opClass_nn_of_accepts 0xF 0x07 h), rfl⟩
  | opFX0A => exact ⟨.opFX0A _, formatXNN_of_nn (opClass_nn_of_accepts 0xF 0x0A h), rfl⟩
  | opFX15 => exact ⟨.opFX15 _, formatXNN_of_nn (opClass_nn_of_accepts 0xF 0x15 h), rfl⟩
  | opFX18 => exact ⟨.opFX18 _, formatXNN_of_nn (opClass_nn_of_accepts 0xF 0x18 h), rfl⟩
  | opFX1E => exact ⟨.opFX1E _, formatXNN_of_nn (opClass_nn_of_accepts 0xF 0x1E h), rfl⟩
  | opFX29 => exact ⟨.opFX29 _, formatXNN_of_nn (opClass_nn_of_accepts 0xF 0x29 h), rfl⟩
  | opFX33 => exact ⟨.opFX33 _, formatXNN_of_nn (opClass_nn_of_accepts 0xF 0x33 h), rfl⟩
  | opFX55 => exact ⟨.opFX55 _, formatXNN_of_nn (opClass_nn_of_accepts 0xF 0x55 h), rfl⟩
  | opFX65 => exact ⟨.opFX65 _, formatXNN_of_nn (opClass_nn_of_accepts 0xF 0x65 h), rfl⟩

theorem row_mem_opcodeTable (i : Instr) : i.row ∈ opcodeTable := by
  cases i <;> simp [opcodeTable, Instr.row]

theorem exists_row_of_mem_opcodeTable {r : OpcodeRow} (h : r ∈ opcodeTable) :
    ∃ i : Instr, i.row = r := by
  simp only [opcodeTable, ← List.map_append] at h
  obtain ⟨i, -, hi⟩ := List.mem_map.1 h
  exact ⟨i, hi⟩

/-- A word that a row of the table accepts decodes to an instruction of that row. -/
theorem decode_of_accepts {w : Word} {r : OpcodeRow} (hr : r ∈ opcodeTable)
    (h : r.accepts w = true) : ∃ i, decode w = .instr i ∧ i.row = r := by
  obtain ⟨i, rfl⟩ := exists_row_of_mem_opcodeTable hr
  obtain ⟨j, rfl, hrow⟩ := exists_encode_of_accepts i h
  exact ⟨j, decode_encode j, hrow⟩

/-- A word that no row of the table accepts is unknown: an instruction's row accepts its word. -/
theorem decode_of_no_row {w : Word} (h : ∀ r ∈ opcodeTable, r.accepts w = false) :
    decode w = .unknown w := by
  cases hd : decode w with
  | instr i =>
    have hacc := row_accepts_encode i
    rw [decodedWordEncodesBack w i hd, h _ (row_mem_opcodeTable i)] at hacc
    cases hacc
  | unknown u => rw [((decode_eq_unknown w u).1 hd).2]

/-- Settles O3: a row of the table accepts exactly the words that decode to an instruction of that
row, and a word decodes to one thing. -/
theorem tableRowsDivideTheWords : Obligations.TableRowsDivideTheWords := by
  refine ⟨rfl, fun w => ⟨fun hu r hr => ?rejected, decode_of_no_row⟩,
    fun w r q hr hq hrw hqw => ?same⟩
  case rejected =>
    by_contra hacc
    obtain ⟨i, hi, -⟩ := decode_of_accepts hr (Bool.not_eq_false _ ▸ hacc)
    cases hu.symm.trans hi
  case same =>
    obtain ⟨i, hi, rfl⟩ := decode_of_accepts hr hrw
    obtain ⟨j, hj, rfl⟩ := decode_of_accepts hq hqw
    cases hi.symm.trans hj
    rfl

/-- Settles O5, by running the decoder on each word. -/
theorem sampleWordsDecodeAsTheTableSays : Obligations.SampleWordsDecodeAsTheTableSays := by
  unfold Obligations.SampleWordsDecodeAsTheTableSays
  decide

end Sys2Proof
end

section
/-! Invariants of the step (10_state.md R35, 20_memory.md section 5): what each effect of an
instruction keeps, and the two ways a step completes. -/

open Sys2Proof.Claims

namespace Sys2Proof.Machine

/-! Memory's canonical form. -/

/-- Only a store writes memory, and it writes inside it. -/
theorem Effect.memoryCanonical {i : Instr} {s t : State} (he : Effect i s t)
    (h : s.MemoryCanonical) : t.MemoryCanonical := by
  cases he with
  | store l _ hl =>
    unfold State.MemoryCanonical
    rw [State.writeBytes_config]
    exact State.writeBytes_wf s _ l hl h
  | clear | draw | ret | call | jump | skip | wait | write | writeFlag | load | index | delay
  | sound =>
    exact h

/-- An unknown word's step ends with the prepared state, but for timers and report. -/
theorem State.unknownStep_eq (s : State) (w : Word) :
    s.unknownStep w = { s with
      dt := if s.config.unknownTicksTimers then tick s.dt else s.dt
      st := if s.config.unknownTicksTimers then tick s.st else s.st
      report := .unknownOpcode w } := by
  unfold State.unknownStep
  split <;> rfl

/-- Settles O24: a completed step ends in what its instruction left, or in the prepared state, and
memory is what it was in the one or the other. -/
theorem stepKeepsMemoryCanonical : Obligations.StepKeepsMemoryCanonical := by
  intro s u h hstep
  have hprepared : s.prepared.MemoryCanonical := h
  obtain ⟨-, ⟨i, t, -, hexec, rfl⟩ | ⟨w, -, rfl⟩⟩ := step_cases s u hstep
  · exact (effect_of_exec i _ t hexec).memoryCanonical hprepared
  · rw [State.unknownStep_eq]
    exact hprepared

/-! The reachable bounds. -/

/-- From a PC no fetch leaves out of, every effect lands within the bounds: a return takes a slot in
use, a call stores PC, a jump has a bounded target, and a skip or a wait moves PC by two. -/
theorem Effect.bounded {i : Instr} {s t : State} (he : Effect i s t) (hlow : 2 ≤ s.pc.toNat)
    (hhigh : s.pc.toNat ≤ 0x1000) (h : s.Bounded) : t.Bounded := by
  obtain ⟨hpc, hslots⟩ := h
  cases he with
  | ret w sp _ hs hw =>
    have hslot : w.toNat ≤ 0x1000 := by
      rw [hw ⟨sp.val, by omega⟩ rfl]
      exact hslots _ (by show sp.val < _; omega)
    refine ⟨by rw [State.setPc_pc]; omega, fun k hk => hslots k ?_⟩
    have hk' : k.val < sp.val := hk
    omega
  | call nnn stack sp _ hs hst =>
    refine ⟨by rw [State.setPc_pc, zextAddr_toNat]; omega, fun k hk => ?_⟩
    have hk' : k.val < sp.val := hk
    rw [State.setPc_stack, hst k]
    split
    · exact hhigh
    · exact hslots k (by omega)
  | jump w _ hw => exact ⟨hw, hslots⟩
  | skip c =>
    refine ⟨?_, hslots⟩
    rw [State.skipIf_pc]
    split
    · bv_omega
    · exact hpc
  | wait =>
    refine ⟨?_, hslots⟩
    rw [State.setPc_pc]
    bv_omega
  | store =>
    rw [State.writeBytes_eq]
    exact ⟨hpc, hslots⟩
  | clear | draw | write | writeFlag | load | index | delay
  | sound => exact ⟨hpc, hslots⟩

/-- PC does not wrap past a word that can be fetched. -/
theorem State.prepared_pc_toNat {s : State} (h : s.pc.toNat + 1 < 4096) :
    s.prepared.pc.toNat = s.pc.toNat + 2 := by
  rw [State.prepared_pc]
  bv_omega

/-- A step that gets past the fetch precondition has both its bytes. -/
theorem State.lt_of_fetchInvalid_eq_false {s : State} (h : s.fetchInvalid = false) :
    s.pc.toNat + 1 < 4096 := by
  simpa [State.fetchInvalid] using h

/-- Settles O25: the fetch precondition bounds PC in the execute phase by 0x1000, from where every
effect, and the end of an unknown word's step, stays within the bounds. -/
theorem stepKeepsTheReachableBounds : Obligations.StepKeepsTheReachableBounds := by
  intro s u ⟨_, hslots⟩ hstep
  obtain ⟨hvalid, hcases⟩ := step_cases s u hstep
  have hlt := State.lt_of_fetchInvalid_eq_false hvalid
  have hpc := State.prepared_pc_toNat hlt
  have hprepared : s.prepared.Bounded := ⟨by omega, hslots⟩
  obtain ⟨i, t, -, hexec, rfl⟩ | ⟨w, -, rfl⟩ := hcases
  · exact (effect_of_exec i _ t hexec).bounded (by omega) (by omega) hprepared
  · rw [State.unknownStep_eq]
    exact hprepared

/-! The states a run starts from. -/

theorem State.blank_memoryCanonical (c : Config) : (State.blank c).MemoryCanonical :=
  Memory.wf_nil c.font

theorem State.blank_bounded (c : Config) : (State.blank c).Bounded :=
  ⟨show 0x200 ≤ 0x10FE by decide, fun _ hk => absurd hk (Nat.not_lt_zero _)⟩

/-- Settles O26: an accepted ROM fits, and is copied over the blank state, which meets both. -/
theorem resetMeetsTheInvariants : Obligations.ResetMeetsTheInvariants := by
  refine ⟨State.blank_memoryCanonical _, State.blank_bounded _, fun c rom s hs => ?_⟩
  have hfits : rom.length ≤ 3584 := (romTooLargeExactlyAbove3584Bytes c rom).2.2 ⟨s, hs⟩
  cases (initCore_of_length_le c hfits).symm.trans hs
  constructor
  · unfold State.MemoryCanonical
    rw [State.writeBytes_config]
    exact State.writeBytes_wf _ _ _ (Nat.add_le_add_left hfits 0x200)
      (State.blank_memoryCanonical c)
  · rw [State.writeBytes_eq]
    exact State.blank_bounded c

end Sys2Proof.Machine
end

section
/-! What no instruction but the listed writers changes (10_state.md sections 1 to 8), read off the
effects. -/

open Sys2Proof.Claims

namespace Sys2Proof.Machine

section
variable {i : Instr} {s t : State} (he : Effect i s t)
include he

theorem Effect.keepsStack (hret : i ≠ .op00EE) (hcall : ∀ nnn, i ≠ .op2NNN nnn) :
    KeepsStack s t := by
  cases he with
  | ret _ _ hi => exact absurd hi hret
  | call nnn _ _ hi => exact absurd hi (hcall nnn)
  | store => rw [State.writeBytes_eq]; exact ⟨rfl, fun _ => rfl⟩
  | clear | draw | jump | skip | wait | write | writeFlag | load | index | delay
  | sound =>
    exact ⟨rfl, fun _ => rfl⟩

theorem Effect.keepsScreen (hclear : i ≠ .op00E0) (hdraw : ∀ x y n, i ≠ .opDXYN x y n) :
    KeepsScreen s t := by
  cases he with
  | clear hi => exact absurd hi hclear
  | draw x y n hi => exact absurd hi (hdraw x y n)
  | store l => exact fun c r => State.writeBytes_pixel s _ l c r
  | ret | call | jump | skip | wait | write | writeFlag | load | index | delay
  | sound =>
    exact fun _ _ => rfl

theorem Effect.keepsMemory (hbcd : ∀ x, i ≠ .opFX33 x) (hblock : ∀ x, i ≠ .opFX55 x) :
    KeepsMemory s t := by
  cases he with
  | store _ hi =>
    obtain ⟨x, hi⟩ | ⟨x, hi⟩ := hi
    · exact absurd hi (hbcd x)
    · exact absurd hi (hblock x)
  | clear | draw | ret | call | jump | skip | wait | write | writeFlag | load | index | delay
  | sound =>
    exact fun _ => rfl

theorem Effect.keepsIndex (hload : ∀ nnn, i ≠ .opANNN nnn) (hadd : ∀ x, i ≠ .opFX1E x)
    (hglyph : ∀ x, i ≠ .opFX29 x) : KeepsIndex s t := by
  cases he with
  | index _ hi =>
    obtain ⟨nnn, hi⟩ | ⟨x, hi⟩ | ⟨x, hi⟩ := hi
    · exact absurd hi (hload nnn)
    · exact absurd hi (hadd x)
    · exact absurd hi (hglyph x)
  | store l => exact State.writeBytes_i s _ l
  | clear | draw | ret | call | jump | skip | wait | write | writeFlag | load | delay
  | sound => exact rfl

theorem Effect.keepsDT (hdelay : ∀ x, i ≠ .opFX15 x) : t.dt = s.dt := by
  cases he with
  | delay x hi => exact absurd hi (hdelay x)
  | store l => exact State.writeBytes_dt s _ l
  | clear | draw | ret | call | jump | skip | wait | write | writeFlag | load | index | sound => rfl

theorem Effect.keepsST (hsound : ∀ x, i ≠ .opFX18 x) : t.st = s.st := by
  cases he with
  | sound x hi => exact absurd hi (hsound x)
  | store l => exact State.writeBytes_st s _ l
  | clear | draw | ret | call | jump | skip | wait | write | writeFlag | load | index | delay => rfl

theorem Effect.keepsLatches_keepsHost : KeepsLatches s t ∧ KeepsHost s t := by
  cases he <;> simp [KeepsLatches, KeepsHost]

theorem Effect.keepsRegsBut : KeepsRegsBut (mayWrite i) s t := by
  intro k hk
  cases he with
  | draw x y n hi =>
    subst hi
    exact State.getV_setV_ne _ _ _ _ (List.ne_of_not_mem_cons hk)
  | write x b hi =>
    have hx : x ∈ mayWrite i := by
      rcases hi with ⟨_, rfl⟩ | ⟨_, rfl⟩ | ⟨_, rfl⟩ | ⟨_, rfl⟩ | ⟨_, rfl⟩ | ⟨_, rfl⟩ | ⟨_, rfl⟩ |
        rfl | rfl <;> exact List.mem_singleton_self x
    exact State.getV_setV_ne _ _ _ _ fun e => hk (e ▸ hx)
  | writeFlag x f b hi =>
    have hx : mayWrite i = [x, regF] := by
      rcases hi with ⟨_, rfl⟩ | ⟨_, rfl⟩ | ⟨_, rfl⟩ | ⟨_, rfl⟩ | ⟨_, rfl⟩ <;> rfl
    rw [hx, List.mem_pair, not_or] at hk
    rw [State.getV_setV_ne _ _ _ _ hk.1, State.getV_setV_ne _ _ _ _ hk.2]
  | load x hi =>
    subst hi
    have hkx : x.val < k.val := by simpa [mayWrite] using hk
    rw [State.getV_setVBlock, State.readBytes_getD, if_neg (by omega)]
  | store l => exact State.writeBytes_getV s _ l k
  | clear | ret | call | jump | skip | wait | index | delay | sound => rfl

end

/-- Settles O16: no effect but a return's and a call's has SP or a slot in it. -/
theorem onlyCallAndReturnTouchTheStack : Obligations.OnlyCallAndReturnTouchTheStack :=
  fun i s t h => (effect_of_exec i s t h).keepsStack

/-- Settles O17: no effect but a clear's and a draw's has the screen in it, and none but a store's
has memory. -/
theorem screenAndMemoryHaveTwoWritersEach : Obligations.ScreenAndMemoryHaveTwoWritersEach :=
  fun i s t h =>
  have he := effect_of_exec i s t h
  ⟨he.keepsScreen, he.keepsMemory⟩

/-- Settles O18: each of I, DT and ST stands in one effect, whose instructions are the listed
writers. -/
theorem indexAndTimersHaveTheListedWriters : Obligations.IndexAndTimersHaveTheListedWriters :=
  fun i s t h =>
  have he := effect_of_exec i s t h
  ⟨he.keepsIndex, he.keepsDT, he.keepsST⟩

/-- Settles O19: no effect has KEY, IR or a field of the model's own in it. -/
theorem noInstructionWritesKeysOrInstructionRegister :
    Obligations.NoInstructionWritesKeysOrInstructionRegister :=
  fun i s t h => (effect_of_exec i s t h).keepsLatches_keepsHost

/-- Settles O20: each effect on registers writes within the list of its instructions. -/
theorem registersChangeOnlyByTheirWriters : Obligations.RegistersChangeOnlyByTheirWriters :=
  fun i s t h => (effect_of_exec i s t h).keepsRegsBut

end Sys2Proof.Machine
end

section
/-! Fatal conditions (60_exceptions.md section 1): which one each instruction raises, and when. -/

open Sys2Proof.Claims

namespace Sys2Proof.Machine

/-- What an outcome's two cases say of its faults: one fault when its cause holds, a next state when
not. -/
theorem fault_iff_of_cases {o : Result} {cause : Prop} {f₀ : Fault}
    (h : (cause ∧ o = .fault f₀) ∨ (¬cause ∧ ∃ t, o = .next t)) :
    (∀ f, o = .fault f ↔ cause ∧ f = f₀) ∧ ∀ r, o ≠ .refused r := by
  obtain ⟨hc, rfl⟩ | ⟨hc, t, rfl⟩ := h
  · simp [hc, eq_comm]
  · simp [hc]

theorem no_fault_of_next {o : Result} (h : ∃ t, o = .next t) :
    (∀ f, o = .fault f ↔ False) ∧ ∀ r, o ≠ .refused r := by
  obtain ⟨t, rfl⟩ := h
  simp

/-- Settles O21: each instruction that can fault does so in one of the two cases of its own lemma,
and every other instruction completes. -/
theorem instructionsRaiseExactlyTheListedConditions :
    Obligations.InstructionsRaiseExactlyTheListedConditions := by
  intro i s
  have hmem : memSize = 0x1000 := rfl
  cases i with
  | op00EE =>
    refine fault_iff_of_cases ?_
    obtain ⟨hempty, e⟩ | ⟨hused, w, t, -, e⟩ := exec00EE_cases s
    · exact .inl ⟨hempty, e⟩
    · exact .inr ⟨by omega, _, e⟩
  | op2NNN nnn =>
    refine fault_iff_of_cases ?_
    obtain ⟨hfull, e⟩ | ⟨hroom, t, -, e⟩ := exec2NNN_cases nnn s
    · exact .inl ⟨hfull, e⟩
    · exact .inr ⟨by omega, _, e⟩
  | opDXYN x y n =>
    simp only [Raises, ← and_assoc]
    refine fault_iff_of_cases ?_
    obtain ⟨hout, e⟩ | ⟨hin, e⟩ := execDXYN_cases x y n s
    · exact .inl ⟨by omega, e⟩
    · exact .inr ⟨by omega, _, e⟩
  | opEX9E x =>
    refine fault_iff_of_cases ?_
    obtain ⟨hbig, e⟩ | ⟨k, hk, e⟩ := execEX9E_cases x s
    · exact .inl ⟨hbig, e⟩
    · exact .inr ⟨by omega, _, e⟩
  | opEXA1 x =>
    refine fault_iff_of_cases ?_
    obtain ⟨hbig, e⟩ | ⟨k, hk, e⟩ := execEXA1_cases x s
    · exact .inl ⟨hbig, e⟩
    · exact .inr ⟨by omega, _, e⟩
  | opFX33 x =>
    refine fault_iff_of_cases ?_
    obtain ⟨hout, e⟩ | ⟨hin, e⟩ := execFX33_cases x s
    · exact .inl ⟨by omega, e⟩
    · exact .inr ⟨by omega, _, e⟩
  | opFX55 x =>
    refine fault_iff_of_cases ?_
    obtain ⟨hout, e⟩ | ⟨hin, e⟩ := execFX55_cases x s
    · exact .inl ⟨by omega, e⟩
    · exact .inr ⟨by omega, _, e⟩
  | opFX65 x =>
    refine fault_iff_of_cases ?_
    obtain ⟨hout, e⟩ | ⟨hin, e⟩ := execFX65_cases x s
    · exact .inl ⟨by omega, e⟩
    · exact .inr ⟨by omega, _, e⟩
  | op00E0 | op1NNN | op3XNN | op4XNN | op5XY0 | op6XNN | op7XNN | op8XY0 | op8XY1 | op8XY2 | op8XY3
  | op8XY4 | op8XY5 | op8XY6 | op8XY7 | op8XYE | op9XY0 | opANNN | opBNNN | opCXNN | opFX07 | opFX0A
  | opFX15 | opFX18 | opFX1E | opFX29 => exact no_fault_of_next ⟨_, rfl⟩

theorem exec_eq_fault_iff (i : Instr) (s : State) (f : Fault) :
    exec i s = .fault f ↔ Raises i s f :=
  (instructionsRaiseExactlyTheListedConditions i s).1 f

/-- An instruction with no cause to fault completes. -/
theorem exec_completes_of_not_raises {i : Instr} {s : State} (h : ∀ f, ¬Raises i s f) :
    ∃ t, exec i s = .next t := by
  cases he : exec i s with
  | next t => exact ⟨t, rfl⟩
  | fault f => exact absurd ((exec_eq_fault_iff i s f).1 he) (h f)
  | refused r => exact absurd he ((instructionsRaiseExactlyTheListedConditions i s).2 r)

/-- InvalidFetch is the fetch's own condition. -/
theorem not_raises_invalidFetch (i : Instr) (s : State) (p : Word) :
    ¬Raises i s (.invalidFetch p) := by
  cases i <;> simp [Raises]

end Sys2Proof.Machine
end

section
/-! The step transaction (40_step.md R101-R109): the state an instruction executes in, a step of a
decoded instruction, of an unknown word, and one whose fetch fails. -/

open Sys2Proof.Claims

namespace Sys2Proof.Machine

/-- Settles O9: a step of a decoded instruction is `finishStep` of its execute phase. -/
theorem stepRunsTheDecodedInstruction : Obligations.StepRunsTheDecodedInstruction := by
  intro s i hf
  refine ⟨fun t ht => ?completes, fun f he => ?faults⟩
  case completes => exact ⟨_, step_of_fetchesInstr hf ht, rfl, tick_toNat t.dt, tick_toNat t.st⟩
  case faults =>
    obtain ⟨hv, hd⟩ := hf
    rw [step_of_decode s i hv hd, he, finishStep]

theorem State.stepInput_of_cons {s : State} {input : StepInput} {rest : List StepInput}
    (h : s.inputs = input :: rest) : s.stepInput = input := by
  rw [State.stepInput, h]

theorem State.stepInput_of_nil {s : State} (h : s.inputs = []) :
    s.stepInput = ⟨Config.freeKeys s.stepCount, Config.freeRandom s.stepCount⟩ := by
  rw [State.stepInput, h]

/-- Settles O10: the latch and the fetch write KEY, IR, PC and the step's own inputs, and the word's
high byte comes from the lower address. -/
theorem preparedStateHasKeysWordAndAdvancedPc :
    Obligations.PreparedStateHasKeysWordAndAdvancedPc := by
  intro s hlt
  refine ⟨fun _ => rfl, BitVec.toNat_append .., State.prepared_pc_toNat hlt, fun _ => rfl, rfl,
    ⟨rfl, fun _ => rfl⟩, ⟨rfl, rfl⟩, fun _ _ => rfl, fun _ => rfl, rfl, rfl, rfl, rfl,
    fun input rest h => ?listed, fun h => ?free⟩
  case listed => exact ⟨State.stepInput_of_cons h, congrArg List.tail h⟩
  case free =>
    rw [State.stepInput_of_nil h]
    exact ⟨rfl, rfl, congrArg List.tail h⟩

theorem step_of_fetchInvalid {s : State} (h : s.fetchInvalid = true) :
    step s = .fault (.invalidFetch s.pc) := if_pos h

/-- Settles O11: the fetch precondition comes first, and no instruction raises InvalidFetch. -/
theorem fetchFailsExactlyAtTheEndOfMemory : Obligations.FetchFailsExactlyAtTheEndOfMemory := by
  intro s
  refine ⟨fun h => step_of_fetchInvalid (s.fetchInvalid_iff.2 h), fun p h => ?_⟩
  obtain ⟨hinvalid, hp⟩ | ⟨-, i, -, he⟩ := step_fault_cases s _ h
  · cases hp
    exact ⟨s.fetchInvalid_iff.1 hinvalid, rfl⟩
  · exact absurd ((exec_eq_fault_iff i _ _).1 he) (not_raises_invalidFetch i _ p)

/-- Settles O12: a word that no row accepts is unknown, and such a step ends with the prepared
state, but for its report and, if the parameter says so, its timers. -/
theorem unknownWordIsReportedAndPassed : Obligations.UnknownWordIsReportedAndPassed := by
  intro s w hlt hw hrows
  have hunknown : decode s.fetchWord = .unknown w :=
    (congrArg decode hw.symm).trans (decode_of_no_row hrows)
  have hstep := step_of_unknown s w hlt hunknown
  rw [State.unknownStep_eq] at hstep
  refine ⟨_, hstep, rfl, hw.symm, State.prepared_pc_toNat hlt, rfl, fun hticks => ?counted,
    fun hticks => ?kept, fun _ => rfl, rfl, ⟨rfl, fun _ => rfl⟩, fun _ _ => rfl, fun _ => rfl,
    rfl, rfl, rfl, rfl⟩
  case counted => simp [hticks, tick_toNat]
  case kept => simp [KeepsTimers, hticks]

/-- Settles O13: a step that returns Ok counts down the timers its instruction left, and only FX15
and FX18 write one. -/
theorem timersCountOncePerStep : Obligations.TimersCountOncePerStep := by
  intro s u hstep hok
  obtain ⟨hvalid, ⟨i, t, hd, he, rfl⟩ | ⟨w, -, rfl⟩⟩ := step_cases s u hstep
  · have hfetches : FetchesInstr s i := ⟨State.lt_of_fetchInvalid_eq_false hvalid, hd⟩
    have heffect := effect_of_exec i _ t he
    refine ⟨fun hno => ?delay, fun hno => ?sound⟩
    case delay =>
      have hdt : t.dt = s.dt := heffect.keepsDT fun x hi => hno x (hi ▸ hfetches)
      exact hdt ▸ tick_toNat t.dt
    case sound =>
      have hst : t.st = s.st := heffect.keepsST fun x hi => hno x (hi ▸ hfetches)
      exact hst ▸ tick_toNat t.st
  · rw [State.unknownStep_eq] at hok
    cases hok

/-! Timer writes (44_keys_timers.md R190, R191). -/

theorem exec_opFX15 (x : RegNo) (s : State) : exec (.opFX15 x) s = .next (s.setDT (s.getV x)) := rfl

theorem exec_opFX18 (x : RegNo) (s : State) : exec (.opFX18 x) s = .next (s.setST (s.getV x)) := rfl

theorem State.soundOn_iff (s : State) : s.soundOn = true ↔ 0 < s.st.toNat := by
  simp [State.soundOn, BitVec.lt_def]

/-- Settles O14: the timer is written in the execute phase, and the countdown of the same step
follows. -/
theorem timerWriteIsCountedInItsOwnStep : Obligations.TimerWriteIsCountedInItsOwnStep := by
  intro s x
  refine ⟨decode_encode (.opFX15 x), decode_encode (.opFX18 x), ?execDelay, ?execSound,
    fun hf => ?stepDelay, fun hf => ?stepSound⟩
  case execDelay =>
    exact ⟨_, exec_opFX15 x s, rfl, rfl, fun _ => rfl, rfl, rfl, ⟨rfl, fun _ => rfl⟩,
      ⟨fun _ => rfl, rfl⟩, fun _ _ => rfl, fun _ => rfl, rfl, rfl, rfl, rfl, rfl⟩
  case execSound =>
    exact ⟨_, exec_opFX18 x s, rfl, rfl, fun _ => rfl, rfl, rfl, ⟨rfl, fun _ => rfl⟩,
      ⟨fun _ => rfl, rfl⟩, fun _ _ => rfl, fun _ => rfl, rfl, rfl, rfl, rfl, rfl⟩
  case stepDelay =>
    exact ⟨_, step_of_fetchesInstr hf (exec_opFX15 x _), rfl, tick_toNat (s.getV x),
      tick_toNat s.st⟩
  case stepSound =>
    have hst := tick_toNat (s.getV x)
    refine ⟨_, step_of_fetchesInstr hf (exec_opFX18 x _), rfl, hst, tick_toNat s.dt, ?_⟩
    rw [State.soundOn_iff]
    show 0 < (tick (s.getV x)).toNat ↔ _
    omega

/-! The step's outputs (60_exceptions.md R221). -/

/-- The table of outputs is the table of conditions, over the state the step starts in. -/
theorem fatalOutput_iff (i : Instr) (s : State) (o : StepOutput) :
    FatalOutput i s o ↔ ∃ f, Raises i s.prepared f ∧ o = faultOutput f := by
  cases i <;> simp [FatalOutput, Raises, faultOutput, and_assoc]

theorem stepOutput_of_fatalOutput {s : State} {i : Instr} {o : StepOutput} (hf : FetchesInstr s i)
    (h : FatalOutput i s o) : stepOutput (step s) = some o := by
  obtain ⟨f, hraises, rfl⟩ := (fatalOutput_iff i s o).1 h
  rw [(stepRunsTheDecodedInstruction s i hf).2 f ((exec_eq_fault_iff i _ f).2 hraises)]
  rfl

theorem stepOutput_of_no_fatalOutput {s : State} {i : Instr} (hf : FetchesInstr s i)
    (h : ∀ o, ¬FatalOutput i s o) : stepOutput (step s) = some ⟨0, 0⟩ := by
  obtain ⟨t, ht⟩ : ∃ t, exec i s.prepared = .next t :=
    exec_completes_of_not_raises fun f hraises => h _ ((fatalOutput_iff i s _).2 ⟨f, hraises, rfl⟩)
  rw [step_of_fetchesInstr hf ht]
  rfl

theorem stepOutput_of_unknown {s : State} {w : Word} (hlt : s.pc.toNat + 1 < 4096)
    (h : decode s.fetchWord = .unknown w) : stepOutput (step s) = some ⟨1, w⟩ := by
  rw [step_of_unknown s w hlt h, State.unknownStep_eq]
  rfl

/-- Settles O54: a step fails its fetch, or fetches an instruction with or without a cause to fault,
or fetches an unknown word. -/
theorem stepOutputsFollowTheCodeTable : Obligations.StepOutputsFollowTheCodeTable := by
  intro s
  have hinvalid (h : 4096 ≤ s.pc.toNat + 1) : stepOutput (step s) = some ⟨2, s.pc⟩ := by
    rw [(fetchFailsExactlyAtTheEndOfMemory s).1 h]
    rfl
  refine ⟨hinvalid, fun i hf => ⟨fun o => stepOutput_of_fatalOutput hf,
    stepOutput_of_no_fatalOutput hf⟩, fun w hlt hw hrows => ?unknown, ?total⟩
  case unknown =>
    exact stepOutput_of_unknown hlt ((congrArg decode hw.symm).trans (decode_of_no_row hrows))
  case total =>
    rcases Nat.lt_or_ge (s.pc.toNat + 1) 4096 with hlt | hge
    · cases hd : decode s.fetchWord with
      | instr i =>
        by_cases hfatal : ∃ o, FatalOutput i s o
        · obtain ⟨o, ho⟩ := hfatal
          exact ⟨o, stepOutput_of_fatalOutput ⟨hlt, hd⟩ ho⟩
        · exact ⟨_, stepOutput_of_no_fatalOutput ⟨hlt, hd⟩ (not_exists.1 hfatal)⟩
      | unknown w => exact ⟨_, stepOutput_of_unknown hlt hd⟩
    · exact ⟨_, hinvalid hge⟩

end Sys2Proof.Machine
end

section
/-! Determinism (40_step.md section 2): a change of the random byte and of the key latch passes
through every instruction that does not read the one it changes. -/

open Sys2Proof.Claims

namespace Sys2Proof.Machine

/-- The state with the random byte and the key latch changed. -/
def State.mapInputs (g : Byte → Byte) (h : Keys → Keys) (s : State) : State :=
  { s with rnd := g s.rnd, key := h s.key }

section
variable (g : Byte → Byte) (h : Keys → Keys) (s : State)

theorem State.writeBytes_mapInputs (a : Nat) (l : List Byte) :
    (s.mapInputs g h).writeBytes a l = (s.writeBytes a l).mapInputs g h := by
  induction l generalizing s a with
  | nil => rfl
  | cons b rest ih => exact ih (s.writeByte a b) (a + 1)

theorem State.push_mapInputs (w : Word) :
    (s.mapInputs g h).push w = (s.push w).map (State.mapInputs g h) := by
  by_cases hroom : s.sp.val < 16 <;> simp [State.push, State.mapInputs, hroom]

theorem State.pop_mapInputs :
    (s.mapInputs g h).pop = s.pop.map (Prod.map id (State.mapInputs g h)) := by
  by_cases hused : 0 < s.sp.val <;> simp [State.pop, State.mapInputs, hused]

theorem mapNext_withBlock (f : State → State) (len : Nat) (run : Result) :
    mapNext f (s.withBlock len run) = s.withBlock len (mapNext f run) := by
  unfold State.withBlock
  split <;> rfl

theorem State.withBlock_mapInputs (len : Nat) {run run' : Result}
    (hrun : run' = mapNext (State.mapInputs g h) run) :
    (s.mapInputs g h).withBlock len run' = mapNext (State.mapInputs g h) (s.withBlock len run) := by
  rw [hrun, mapNext_withBlock]
  rfl

/-- Only CXNN reads the random byte, and only EX9E, EXA1 and FX0A read the key latch. -/
theorem exec_mapInputs (i : Instr) (hr : (∃ x nn, i = .opCXNN x nn) → g = id)
    (hk : (∃ x, i = .opEX9E x) ∨ (∃ x, i = .opEXA1 x) ∨ (∃ x, i = .opFX0A x) → h = id) :
    exec i (s.mapInputs g h) = mapNext (State.mapInputs g h) (exec i s) := by
  have getV (x : RegNo) : (s.mapInputs g h).getV x = s.getV x := rfl
  cases i with
  | opCXNN x nn =>
    obtain rfl := hr ⟨x, nn, rfl⟩
    rfl
  | opEX9E x =>
    obtain rfl := hk (.inl ⟨x, rfl⟩)
    simp only [exec, execEX9E, getV]
    cases keyNumber (s.getV x) <;> rfl
  | opEXA1 x =>
    obtain rfl := hk (.inr (.inl ⟨x, rfl⟩))
    simp only [exec, execEXA1, getV]
    cases keyNumber (s.getV x) <;> rfl
  | opFX0A x =>
    obtain rfl := hk (.inr (.inr ⟨x, rfl⟩))
    have hkey : (s.mapInputs g id).key = s.key := rfl
    simp only [exec, execFX0A, hkey]
    cases firstPressed s.key <;> rfl
  | op00EE =>
    simp only [exec, exec00EE, State.pop_mapInputs]
    cases s.pop <;> rfl
  | op2NNN nnn =>
    have hpc : (s.mapInputs g h).pc = s.pc := rfl
    simp only [exec, exec2NNN, hpc, State.push_mapInputs]
    cases s.push s.pc <;> rfl
  | opDXYN | opFX65 => exact State.withBlock_mapInputs g h s _ rfl
  | opFX33 | opFX55 =>
    exact State.withBlock_mapInputs g h s _ (congrArg _ (s.writeBytes_mapInputs g h _ _))
  | op00E0 | op1NNN | op3XNN | op4XNN | op5XY0 | op6XNN | op7XNN | op8XY0 | op8XY1 | op8XY2 | op8XY3
  | op8XY4 | op8XY5 | op8XY6 | op8XY7 | op8XYE | op9XY0 | opANNN | opBNNN | opFX07 | opFX15 | opFX18
  | opFX1E | opFX29 => rfl

end

/-- Settles O22: the random byte changed, and the key latch left alone. -/
theorem randomByteReachesOnlyCXNN : Obligations.RandomByteReachesOnlyCXNN := fun i s b hi =>
  exec_mapInputs (fun _ => b) id s i (fun ⟨x, nn, e⟩ => absurd e (hi x nn)) fun _ => rfl

/-- Settles O23: the key latch changed, and the random byte left alone. -/
theorem keysReachOnlyTheKeyInstructions : Obligations.KeysReachOnlyTheKeyInstructions := by
  intro i s keys hskip hskipNot hwait
  refine exec_mapInputs id (fun _ => keys) s i (fun _ => rfl) ?_
  rintro (⟨x, e⟩ | ⟨x, e⟩ | ⟨x, e⟩)
  · exact absurd e (hskip x)
  · exact absurd e (hskipNot x)
  · exact absurd e (hwait x)

end Sys2Proof.Machine
end

section
/-! Arithmetic with a flag (42_alu.md sections 4 to 6): the frame of a flag and a result, what each
instruction runs, and the values as natural numbers. An instruction with x = F is one write, as its
result overwrites its flag. -/

open Sys2Proof.Claims

namespace Sys2Proof.Machine

/-! A flag, then a result. -/

theorem State.setV_setV (s : State) (x : RegNo) (a b : Byte) :
    (s.setV x a).setV x b = s.setV x b := by
  simp [State.setV]

theorem writesOnlyRegs_setFlag (s : State) (x : RegNo) (f b : Byte) :
    WritesOnlyRegs [x, regF] s ((s.setV regF f).setV x b) := by
  obtain ⟨-, hrest⟩ := writesOnlyRegs_setV s x b
  refine ⟨fun k hk => ?_, hrest⟩
  rw [List.mem_pair, not_or] at hk
  rw [State.getV_setV_ne _ _ _ _ hk.1, State.getV_setV_ne _ _ _ _ hk.2]

/-- What the statement of a flagged result asks where V[x] is not VF: the number the result stands
for, a property of the flag, and the frame. -/
theorem writesFlagged_of_exec_eq {i : Instr} {s : State} {x : RegNo} {f b : Byte} {n : Nat}
    {flag : Byte → Prop} (hx : x ≠ regF) (he : exec i s = .next ((s.setV regF f).setV x b))
    (hb : b.toNat = n) (hf : flag f) :
    ∃ t, exec i s = .next t ∧ (t.getV x).toNat = n ∧ flag (t.getV regF) ∧
      WritesOnlyRegs [x, regF] s t := by
  refine ⟨_, he, by rw [State.getV_setV_same, hb], ?_, writesOnlyRegs_setFlag s x f b⟩
  rwa [State.getV_setV_ne _ _ _ _ hx.symm, State.getV_setV_same]

/-- Where V[x] is VF the result overwrites the flag. -/
theorem exec_eq_setV_of_flag {i : Instr} {s : State} {f b : Byte}
    (he : exec i s = .next ((s.setV regF f).setV regF b)) : exec i s = .next (s.setV regF b) := by
  rw [he, State.setV_setV]

/-- As `writesRegister_of_exec_eq`, for a result known as a byte. -/
theorem writesByte_of_exec_eq {i : Instr} {s : State} {x : RegNo} {b c : Byte}
    (he : exec i s = .next (s.setV x b)) (hb : b = c) :
    ∃ t, exec i s = .next t ∧ t.getV x = c ∧ WritesOnlyRegs [x] s t :=
  ⟨_, he, (State.getV_setV_same ..).trans hb, writesOnlyRegs_setV s x b⟩

/-! The flags (10_state.md R21). -/

theorem flagByte_toNat (c : Bool) : (flagByte c).toNat = if c then 1 else 0 := by
  cases c <;> rfl

theorem flagIs_flagByte (p : Prop) [Decidable p] : flagIs (flagByte (decide p)) p := by
  by_cases hp : p <;> simp [flagIs, flagByte, hp]

theorem carryFlag_is (a b : Byte) : flagIs (carryFlag a b) (a.toNat + b.toNat > 255) :=
  flagIs_flagByte _

theorem greaterFlag_is (a b : Byte) : flagIs (greaterFlag a b) (a.toNat > b.toNat) :=
  flagIs_flagByte _

theorem greaterFlag_toNat (a b : Byte) :
    (greaterFlag a b).toNat = if a.toNat > b.toNat then 1 else 0 := by
  simp [greaterFlag, flagByte_toNat]

theorem lowBitFlag_toNat (a : Byte) : (lowBitFlag a).toNat = a.toNat % 2 := by
  simp [lowBitFlag, Nat.and_one_is_mod]

theorem highBitFlag_toNat (a : Byte) : (highBitFlag a).toNat = a.toNat / 128 := by
  have := a.isLt
  simp [highBitFlag, Nat.and_one_is_mod, Nat.shiftRight_eq_div_pow]
  omega

/-! The results. -/

theorem sub_toNat (a b : Byte) : (a - b).toNat = (a.toNat + 256 - b.toNat) % 256 := by
  bv_omega

theorem shiftRight_toNat (a : Byte) : (a >>> 1).toNat = a.toNat / 2 :=
  Nat.shiftRight_one a.toNat

theorem shiftLeft_toNat (a : Byte) : (a <<< 1).toNat = a.toNat * 2 % 256 := by
  simp [Nat.shiftLeft_eq]

/-! What the five instructions run: the operands of the result are read after VF is written, but for
8XY4. -/

section
variable (x y : RegNo) (s : State)

theorem exec_op8XY4 : exec (.op8XY4 x y) s =
    .next ((s.setV regF (carryFlag (s.getV x) (s.getV y))).setV x (s.getV x + s.getV y)) := rfl

theorem exec_op8XY5 {f a b : Byte} (hf : f = greaterFlag (s.getV x) (s.getV y))
    (ha : (s.setV regF f).getV x = a) (hb : (s.setV regF f).getV y = b) :
    exec (.op8XY5 x y) s = .next ((s.setV regF f).setV x (a - b)) := by
  subst hf ha hb
  rfl

theorem exec_op8XY6 {f a : Byte} (hf : f = lowBitFlag (s.getV x))
    (ha : (s.setV regF f).getV x = a) :
    exec (.op8XY6 x y) s = .next ((s.setV regF f).setV x (a >>> 1)) := by
  subst hf ha
  rfl

theorem exec_op8XY7 {f a b : Byte} (hf : f = greaterFlag (s.getV y) (s.getV x))
    (ha : (s.setV regF f).getV x = a) (hb : (s.setV regF f).getV y = b) :
    exec (.op8XY7 x y) s = .next ((s.setV regF f).setV x (b - a)) := by
  subst hf ha hb
  rfl

theorem exec_op8XYE {f a : Byte} (hf : f = highBitFlag (s.getV x))
    (ha : (s.setV regF f).getV x = a) :
    exec (.op8XYE x y) s = .next ((s.setV regF f).setV x (a <<< 1)) := by
  subst hf ha
  rfl

end

/-- Settles O29: the sum is bound before VF is written, so it is what V[x] holds even where x = F.
-/
theorem addSetsSumAndCarry : Obligations.AddSetsSumAndCarry := by
  intro s x y
  refine ⟨decode_encode (.op8XY4 x y), _, exec_op8XY4 x y s, ?sum, fun hx => ?carry,
    writesOnlyRegs_setFlag ..⟩
  case sum =>
    rw [State.getV_setV_same]
    exact BitVec.toNat_add ..
  case carry =>
    rw [State.getV_setV_ne _ _ _ _ hx.symm, State.getV_setV_same]
    exact carryFlag_is ..

/-- Settles O30: where neither operand is VF, both are read after VF is written as they were before.
-/
theorem subtractSetsDifferenceAndComparison : Obligations.SubtractSetsDifferenceAndComparison := by
  intro s x y hx hy
  have readX (f : Byte) := State.getV_setV_ne s regF x f hx
  have readY (f : Byte) := State.getV_setV_ne s regF y f hy
  exact ⟨decode_encode (.op8XY5 x y), decode_encode (.op8XY7 x y),
    writesFlagged_of_exec_eq (flag := (flagIs · _)) hx (exec_op8XY5 x y s rfl (readX _) (readY _))
      (sub_toNat ..) (greaterFlag_is ..),
    writesFlagged_of_exec_eq (flag := (flagIs · _)) hx (exec_op8XY7 x y s rfl (readX _) (readY _))
      (sub_toNat ..) (greaterFlag_is ..)⟩

theorem exec_op8XY6_of_ne (s : State) {x : RegNo} (y : RegNo) (hx : x ≠ regF) :
    ∃ t, exec (.op8XY6 x y) s = .next t ∧ (t.getV x).toNat = (s.getV x).toNat / 2 ∧
      (t.getV regF).toNat = (s.getV x).toNat % 2 ∧ WritesOnlyRegs [x, regF] s t :=
  writesFlagged_of_exec_eq (flag := (BitVec.toNat · = _)) hx
    (exec_op8XY6 x y s rfl (State.getV_setV_ne s regF x _ hx)) (shiftRight_toNat _)
    (lowBitFlag_toNat _)

theorem exec_op8XYE_of_ne (s : State) {x : RegNo} (y : RegNo) (hx : x ≠ regF) :
    ∃ t, exec (.op8XYE x y) s = .next t ∧ (t.getV x).toNat = (s.getV x).toNat * 2 % 256 ∧
      (t.getV regF).toNat = (s.getV x).toNat / 128 ∧ WritesOnlyRegs [x, regF] s t :=
  writesFlagged_of_exec_eq (flag := (BitVec.toNat · = _)) hx
    (exec_op8XYE x y s rfl (State.getV_setV_ne s regF x _ hx)) (shiftLeft_toNat _)
    (highBitFlag_toNat _)

/-- Settles O31: where V[x] is not VF it is read after VF is written as it was before; V[y] is not
read. -/
theorem shiftsMoveTheLostBitToVF : Obligations.ShiftsMoveTheLostBitToVF := fun s x y hx =>
  ⟨decode_encode (.op8XY6 x y), decode_encode (.op8XYE x y), exec_op8XY6_of_ne s y hx,
    exec_op8XYE_of_ne s y hx⟩

/-! The table of VF as an operand (42_alu.md section 6), one lemma for each of its columns: an
operand VF reads as the flag just written, in all but 8XY4. -/

section
variable (s : State)

theorem exec_flagDestination {y : RegNo} (hy : y ≠ regF) :
    let f := (s.getV regF).toNat
    let b := (s.getV y).toNat
    (∃ t, exec (.op8XY4 regF y) s = .next t ∧ (t.getV regF).toNat = (f + b) % 256 ∧
      WritesOnlyRegs [regF] s t) ∧
    (∃ t, exec (.op8XY5 regF y) s = .next t ∧
      (t.getV regF).toNat = ((if f > b then 1 else 0) + 256 - b) % 256 ∧
      WritesOnlyRegs [regF] s t) ∧
    (∃ t, exec (.op8XY7 regF y) s = .next t ∧
      (t.getV regF).toNat = (b + 256 - (if b > f then 1 else 0)) % 256 ∧
      WritesOnlyRegs [regF] s t) := by
  have readF (f : Byte) := State.getV_setV_same s regF f
  have readY (f : Byte) := State.getV_setV_ne s regF y f hy
  refine ⟨
    writesRegister_of_exec_eq (exec_eq_setV_of_flag (exec_op8XY4 regF y s)) (BitVec.toNat_add ..),
    writesRegister_of_exec_eq
      (exec_eq_setV_of_flag (exec_op8XY5 regF y s rfl (readF _) (readY _))) ?_,
    writesRegister_of_exec_eq
      (exec_eq_setV_of_flag (exec_op8XY7 regF y s rfl (readF _) (readY _))) ?_⟩ <;>
  rw [sub_toNat, greaterFlag_toNat]

theorem exec_flagSource {x : RegNo} (hx : x ≠ regF) :
    let f := (s.getV regF).toNat
    let a := (s.getV x).toNat
    (∃ t, exec (.op8XY4 x regF) s = .next t ∧ (t.getV x).toNat = (a + f) % 256 ∧
      flagIs (t.getV regF) (a + f > 255) ∧ WritesOnlyRegs [x, regF] s t) ∧
    (∃ t, exec (.op8XY5 x regF) s = .next t ∧
      (t.getV x).toNat = (a + 256 - (if a > f then 1 else 0)) % 256 ∧
      flagIs (t.getV regF) (a > f) ∧ WritesOnlyRegs [x, regF] s t) ∧
    (∃ t, exec (.op8XY7 x regF) s = .next t ∧
      (t.getV x).toNat = ((if f > a then 1 else 0) + 256 - a) % 256 ∧
      flagIs (t.getV regF) (f > a) ∧ WritesOnlyRegs [x, regF] s t) := by
  have readF (f : Byte) := State.getV_setV_same s regF f
  have readX (f : Byte) := State.getV_setV_ne s regF x f hx
  refine ⟨
    writesFlagged_of_exec_eq (flag := (flagIs · _)) hx (exec_op8XY4 x regF s) (BitVec.toNat_add ..)
      (carryFlag_is ..),
    writesFlagged_of_exec_eq (flag := (flagIs · _)) hx
      (exec_op8XY5 x regF s rfl (readX _) (readF _)) ?_ (greaterFlag_is ..),
    writesFlagged_of_exec_eq (flag := (flagIs · _)) hx
      (exec_op8XY7 x regF s rfl (readX _) (readF _)) ?_ (greaterFlag_is ..)⟩ <;>
  rw [sub_toNat, greaterFlag_toNat]

/-- Shifted right, the flag's one bit is lost. -/
theorem exec_op8XY6_flag (y : RegNo) :
    ∃ t, exec (.op8XY6 regF y) s = .next t ∧ t.getV regF = 0 ∧ WritesOnlyRegs [regF] s t := by
  refine writesByte_of_exec_eq
    (exec_eq_setV_of_flag (exec_op8XY6 regF y s rfl (State.getV_setV_same ..))) ?_
  apply BitVec.eq_of_toNat_eq
  rw [shiftRight_toNat, lowBitFlag_toNat]
  show _ = 0
  omega

theorem exec_op8XYE_flag (y : RegNo) :
    ∃ t, exec (.op8XYE regF y) s = .next t ∧
      (t.getV regF).toNat = 2 * ((s.getV regF).toNat / 128) ∧ WritesOnlyRegs [regF] s t := by
  refine writesRegister_of_exec_eq
    (exec_eq_setV_of_flag (exec_op8XYE regF y s rfl (State.getV_setV_same ..))) ?_
  have := (s.getV regF).isLt
  rw [shiftLeft_toNat, highBitFlag_toNat]
  omega

/-- Both operands read as the flag, and the difference is 0. -/
theorem exec_op8XY5_flag_flag :
    ∃ t, exec (.op8XY5 regF regF) s = .next t ∧ t.getV regF = 0 ∧ WritesOnlyRegs [regF] s t :=
  writesByte_of_exec_eq (exec_eq_setV_of_flag (exec_op8XY5 regF regF s rfl
    (State.getV_setV_same ..) (State.getV_setV_same ..))) (BitVec.sub_self _)

theorem exec_op8XY7_flag_flag :
    ∃ t, exec (.op8XY7 regF regF) s = .next t ∧ t.getV regF = 0 ∧ WritesOnlyRegs [regF] s t :=
  writesByte_of_exec_eq (exec_eq_setV_of_flag (exec_op8XY7 regF regF s rfl
    (State.getV_setV_same ..) (State.getV_setV_same ..))) (BitVec.sub_self _)

end

/-- Settles O32, column by column. -/
theorem vfAsOperandFollowsTheStatementOrder : Obligations.VFAsOperandFollowsTheStatementOrder := by
  rintro s f rfl
  refine ⟨?destination, ?source, fun y => ⟨exec_op8XY6_flag s y, exec_op8XYE_flag s y⟩, ?sum,
    exec_op8XY5_flag_flag s, exec_op8XY7_flag_flag s⟩
  case destination =>
    rintro y b hy rfl
    exact exec_flagDestination s hy
  case source =>
    rintro x a hx rfl
    obtain ⟨hadd, hsub, hsubn⟩ := exec_flagSource s hx
    exact ⟨hadd, hsub, exec_op8XY6_of_ne s regF hx, hsubn, exec_op8XYE_of_ne s regF hx⟩
  case sum =>
    refine writesRegister_of_exec_eq (exec_eq_setV_of_flag (exec_op8XY4 regF regF s)) ?_
    rw [BitVec.toNat_add, Nat.two_mul]

/-- Settles O33: CXNN is one write to V[x]. -/
theorem randomIsMaskedByTheImmediate : Obligations.RandomIsMaskedByTheImmediate := by
  intro s x nn
  have he : exec (.opCXNN x nn) s = .next (s.setV x (nn &&& s.rnd)) := rfl
  refine ⟨decode_encode (.opCXNN x nn), _, he, ?_⟩
  rw [State.getV_setV_same]
  refine ⟨BitVec.toNat_and .., fun h => ?zero, fun h => ?ones, writesOnlyRegs_setV ..⟩
  case zero => rw [h]; exact BitVec.zero_and
  case ones => rw [h]; exact BitVec.allOnes_and

end Sys2Proof.Machine
end

section
/-! Calls, returns and the skips on registers and keys (41_control_flow.md sections 2 and 3,
44_keys_timers.md R186, R187). -/

open Sys2Proof.Claims

namespace Sys2Proof.Machine

/-- Settles O38: with room on the stack a call is a push of PC and a jump. -/
theorem callPushesAndJumps : Obligations.CallPushesAndJumps := by
  intro s nnn
  refine ⟨decode_encode (.op2NNN nnn), fun hroom => ?_⟩
  obtain ⟨hfull, -⟩ | ⟨-, t, hpush, he⟩ := exec2NNN_cases nnn s
  · omega
  obtain ⟨-, hsp, ht, hslots⟩ := State.push_eq_some s t s.pc hpush
  rw [ht] at he
  exact ⟨_, he, zextAddr_toNat nnn, hsp, fun k hk => (hslots k).trans (if_pos hk),
    fun k hk => (hslots k).trans (if_neg hk), fun _ => rfl, rfl, ⟨rfl, rfl⟩, ⟨fun _ => rfl, rfl⟩,
    fun _ _ => rfl, fun _ => rfl, rfl, rfl, rfl, rfl, rfl⟩

/-- Settles O39: with a slot in use a return is a pop into PC, which leaves the slots as they are.
-/
theorem returnPopsIntoPc : Obligations.ReturnPopsIntoPc := by
  refine ⟨decode_encode .op00EE, fun s hused => ?_⟩
  obtain ⟨hempty, -⟩ | ⟨-, w, t, hpop, he⟩ := exec00EE_cases s
  · omega
  obtain ⟨-, hsp, ht, hw⟩ := State.pop_eq_some s t w hpop
  rw [ht] at he
  have hcount : t.sp.val + 1 = s.sp.val := by omega
  exact ⟨_, he, hcount, hw, fun _ => rfl, fun _ => rfl, rfl, ⟨rfl, rfl⟩, ⟨fun _ => rfl, rfl⟩,
    fun _ _ => rfl, fun _ => rfl, rfl, rfl, rfl, rfl, rfl⟩

/-- Settles O41: the call's slot is the last one in use when the return executes, so it is the slot
that the return takes. -/
theorem callThenReturnComesBack : Obligations.CallThenReturnComesBack := by
  intro s t u v nnn hcall hsp hslots hret
  have hroom : s.sp.val < 16 := by
    obtain ⟨-, he⟩ | ⟨hroom, -⟩ := exec2NNN_cases nnn s
    · cases he.symm.trans hcall
    · exact hroom
  obtain ⟨t', ht', -, htsp, htop, -⟩ := (callPushesAndJumps s nnn).2 hroom
  cases ht'.symm.trans hcall
  have hdepth : u.sp.val = s.sp.val + 1 := by rw [hsp, htsp]
  obtain ⟨v', hv', hvsp, hpc, -⟩ := returnPopsIntoPc.2 u (by omega)
  cases hv'.symm.trans hret
  let top : Fin 16 := ⟨s.sp.val, hroom⟩
  refine ⟨?_, Fin.ext (by omega)⟩
  calc v.pc = u.stack[top] := hpc top hdepth.symm
    _ = t.stack[top] := hslots top (by rw [htsp]; exact Nat.lt_succ_self _)
    _ = s.pc := htop top rfl

/-- 5XYn and 9XYn with a low nibble other than 0 (D4). -/
theorem decode_formatXYN_of_ne_zero (x y : RegNo) {n : BitVec 4} (hn : n ≠ 0) :
    decode (formatXYN 0x5 x y n) = .unknown (formatXYN 0x5 x y n) ∧
    decode (formatXYN 0x9 x y n) = .unknown (formatXYN 0x9 x y n) := by
  simpa [decode_eq_unknown, dispatch, fieldsOf_formatXYN] using hn

/-- Settles O43: 5XY0 and 9XY0 are `skipIf` of the comparison V[x] = V[y] and of its negation. -/
theorem registerSkipsAddTwo : Obligations.RegisterSkipsAddTwo := fun s x y =>
  ⟨decode_encode (.op5XY0 x y), decode_encode (.op9XY0 x y),
    fun _ hn => decode_formatXYN_of_ne_zero x y hn,
    skips_of_exec_eq (c := s.getV x == s.getV y) rfl beq_iff_eq.mpr beq_false_of_ne,
    skips_of_exec_eq (c := s.getV x != s.getV y) rfl bne_iff_ne.mpr (by simp)⟩

theorem exec_opEX9E_of_key {s : State} {x : RegNo} {k : Fin 16} (hk : (s.getV x).toNat = k.val) :
    exec (.opEX9E x) s = .next (s.skipIf s.key[k]) := by
  obtain ⟨hbig, -⟩ | ⟨j, hj, he⟩ := execEX9E_cases x s
  · omega
  · obtain rfl : j = k := Fin.ext (hj.symm.trans hk)
    exact he

theorem exec_opEXA1_of_key {s : State} {x : RegNo} {k : Fin 16} (hk : (s.getV x).toNat = k.val) :
    exec (.opEXA1 x) s = .next (s.skipIf (!s.key[k])) := by
  obtain ⟨hbig, -⟩ | ⟨j, hj, he⟩ := execEXA1_cases x s
  · omega
  · obtain rfl : j = k := Fin.ext (hj.symm.trans hk)
    exact he

theorem zextByte_toNat (b : Byte) : (zextByte b).toNat = b.toNat :=
  BitVec.toNat_setWidth_of_le (by decide)

/-- Settles O44: for a key number both are `skipIf` of the key's level, and for any other value the
cause of the fatal condition holds. -/
theorem keySkipsTestTheLatchedLevel : Obligations.KeySkipsTestTheLatchedLevel := by
  intro s x
  refine ⟨decode_encode (.opEX9E x), decode_encode (.opEXA1 x), fun k hk => ⟨?pressed, ?released⟩,
    fun hbig => ⟨?pressedFaults, ?releasedFaults⟩⟩
  case pressed => exact skips_of_exec_eq (exec_opEX9E_of_key hk) id id
  case released => exact skips_of_exec_eq (exec_opEXA1_of_key hk) (by simp) (by simp)
  case pressedFaults =>
    exact ⟨_, (exec_eq_fault_iff (.opEX9E x) s _).2 ⟨hbig, rfl⟩, zextByte_toNat _⟩
  case releasedFaults =>
    exact ⟨_, (exec_eq_fault_iff (.opEXA1 x) s _).2 ⟨hbig, rfl⟩, zextByte_toNat _⟩

end Sys2Proof.Machine
end

section
/-! Memory as instructions use it (45_index_memory.md, 20_memory.md): the frame of a block of
writes, and what is read back from it. -/

open Sys2Proof.Claims

namespace Sys2Proof.Machine

/-- Settles O53: a write within memory keeps the canonical form, under which it is read back. -/
theorem readGivesTheLastByteWritten : Obligations.ReadGivesTheLastByteWritten := by
  intro s a b v hcanon ha
  have hread (b : Nat) := State.readByte_writeByte s a b v hcanon
  exact ⟨Memory.wf_write _ _ _ _ ha hcanon, (hread a).trans (if_pos rfl),
    fun hne => (hread b).trans (if_neg hne.symm)⟩

section
variable {s : State} {a : Nat} {l : List Byte} (hcanon : s.MemoryCanonical)
  (hl : a + l.length ≤ memSize)
include hcanon hl

theorem writesOnlyBytes_writeBytes : WritesOnlyBytes a l.length s (s.writeBytes a l) := by
  have hout : KeepsMemoryOutside a l.length s (s.writeBytes a l) := fun b hb => by
    rw [State.readByte_writeBytes s a b l hl hcanon, if_neg hb]
  rw [State.writeBytes_eq] at hout ⊢
  exact ⟨fun _ => rfl, rfl, rfl, ⟨rfl, fun _ => rfl⟩, ⟨rfl, rfl⟩, ⟨fun _ => rfl, rfl⟩,
    fun _ _ => rfl, hout, rfl, rfl, rfl, rfl, rfl⟩

theorem readByte_in_writeBytes {k : Nat} (hk : k < l.length) :
    (s.writeBytes a l).readByte (a + k) = l.getD k 0 := by
  rw [State.readByte_writeBytes s a _ l hl hcanon, if_pos (by omega), Nat.add_sub_cancel_left]

end

/-! An instruction placed at PC. -/

theorem tableWord_toNat (w : Word) : tableWord 16 w.toNat = w := by
  have := w.isLt
  apply BitVec.eq_of_toNat_eq
  rw [tableWord, BitVec.toNat_ofNat]
  omega

section
variable {s : State} (w : Word) (h : s.pc.toNat + 1 < 4096)
include h

theorem withFetchWord_eq :
    s.withFetchWord 16 w.toNat = s.writeBytes s.pc.toNat [hiByte w, loByte w] := by
  have hexists : addressExists (s.pc.toNat + 1) = true := decide_eq_true h
  rw [State.withFetchWord, tableWord_toNat, State.storeWord, if_pos hexists]

theorem withFetchWord_writesOnlyBytes (hcanon : s.MemoryCanonical) :
    WritesOnlyBytes s.pc.toNat 2 s (s.withFetchWord 16 w.toNat) := by
  rw [withFetchWord_eq w h]
  exact writesOnlyBytes_writeBytes hcanon h

theorem withFetchWord_readByte (hcanon : s.MemoryCanonical) :
    (s.withFetchWord 16 w.toNat).readByte s.pc.toNat = hiByte w ∧
    (s.withFetchWord 16 w.toNat).readByte (s.pc.toNat + 1) = loByte w := by
  rw [withFetchWord_eq w h]
  exact ⟨readByte_in_writeBytes (k := 0) hcanon h Nat.zero_lt_two,
    readByte_in_writeBytes (k := 1) hcanon h Nat.one_lt_two⟩

end

/-- Settles O15: the two bytes placed at PC join to the instruction's word. -/
theorem placedInstructionIsTheOneThatRuns : Obligations.PlacedInstructionIsTheOneThatRuns := by
  intro s i hcanon hlt
  obtain ⟨hregs, hpc, hrest⟩ := withFetchWord_writesOnlyBytes (encode i) hlt hcanon
  obtain ⟨hhi, hlo⟩ := withFetchWord_readByte (encode i) hlt hcanon
  refine ⟨⟨?inMemory, ?decodes⟩, hhi, hlo, hregs, hpc, hrest⟩
  case inMemory => rwa [hpc]
  case decodes => rw [hpc, hhi, hlo, joinBytes_hiByte_loByte, decode_encode]

/-! The storing instructions. -/

theorem bcdDigits_toNat (b : Byte) :
    ((bcdDigits b).getD 0 0).toNat = b.toNat / 100 ∧
    ((bcdDigits b).getD 1 0).toNat = b.toNat / 10 % 10 ∧
    ((bcdDigits b).getD 2 0).toNat = b.toNat % 10 := by
  have := b.isLt
  simp only [bcdDigits, List.getD_cons_zero, List.getD_cons_succ, BitVec.toNat_ofNat]
  omega

/-- Settles O49: FX33 is a write of the three digits, where the block of three bytes exists. -/
theorem decimalDigitsAreStoredAtTheIndex : Obligations.DecimalDigitsAreStoredAtTheIndex := by
  intro s x hcanon
  refine ⟨decode_encode (.opFX33 x), fun hin => ?stores, fun hout => ?faults⟩
  case stores =>
    have hl : s.i.toNat + (bcdDigits (s.getV x)).length ≤ memSize := Nat.succ_le_succ hin
    have he : exec (.opFX33 x) s = .next (s.writeBytes s.i.toNat (bcdDigits (s.getV x))) :=
      State.withBlock_of_exists _ _ _ (.inr hl)
    have hread (k : Nat) (hk : k < 3) := congrArg BitVec.toNat (readByte_in_writeBytes hcanon hl hk)
    obtain ⟨hundreds, tens, ones⟩ := bcdDigits_toNat (s.getV x)
    exact ⟨_, he, (hread 0 (by decide)).trans hundreds, (hread 1 (by decide)).trans tens,
      (hread 2 (by decide)).trans ones, writesOnlyBytes_writeBytes hcanon hl⟩
  case faults => exact (exec_eq_fault_iff (.opFX33 x) s _).2 ⟨hout, rfl⟩

/-- Settles O50: FX55 is a write of the register block, where the block exists. -/
theorem registerBlockIsStoredAtTheIndex : Obligations.RegisterBlockIsStoredAtTheIndex := by
  intro s x hcanon
  refine ⟨decode_encode (.opFX55 x), fun hin => ?stores, fun hout => ?faults⟩
  case stores =>
    have hlen := s.regBlock_length x
    have hl : s.i.toNat + (s.regBlock x).length ≤ memSize := hlen ▸ Nat.succ_le_succ hin
    have he : exec (.opFX55 x) s = .next (s.writeBytes s.i.toNat (s.regBlock x)) :=
      State.withBlock_of_exists _ _ _ (.inr (Nat.succ_le_succ hin))
    refine ⟨_, he, fun k hk => ?_, hlen ▸ writesOnlyBytes_writeBytes hcanon hl⟩
    have hk' : k.val < x.val + 1 := Nat.lt_succ_of_le hk
    rw [readByte_in_writeBytes hcanon hl (hlen ▸ hk'), State.regBlock_getD s x k.val hk']
  case faults => exact (exec_eq_fault_iff (.opFX55 x) s _).2 ⟨hout, rfl⟩

/-- FX55 completes only where its block exists. -/
theorem block_of_exec_opFX55 {s t : State} {x : RegNo} (h : exec (.opFX55 x) s = .next t) :
    s.i.toNat + x.val ≤ 0xFFF := by
  by_contra hout
  have he := (exec_eq_fault_iff (.opFX55 x) s _).2 ⟨Nat.lt_of_not_le hout, rfl⟩
  cases he.symm.trans h

/-- Settles O52: the fetch joins two adjacent bytes of the block FX55 stored. -/
theorem storedRegistersAreFetchedBigEndian : Obligations.StoredRegistersAreFetchedBigEndian := by
  intro s t x k hk a hcanon hexec hkx ha
  obtain ⟨-, hstores, -⟩ := registerBlockIsStoredAtTheIndex s x hcanon
  obtain ⟨t', ht', hread, -⟩ := hstores (block_of_exec_opFX55 hexec)
  cases ht'.symm.trans hexec
  have hhi : t.readByte a.toNat = s.getV k := by
    rw [ha]
    exact hread k (Nat.le_of_succ_le hkx)
  have hlo : t.readByte (a.toNat + 1) = s.getV ⟨k.val + 1, hk⟩ := by
    rw [ha]
    exact hread ⟨k.val + 1, hk⟩ hkx
  show (joinBytes (t.readByte a.toNat) (t.readByte (a.toNat + 1))).toNat = _
  rw [joinBytes_toNat, hhi, hlo]

theorem keepsAllButRegs_setVBlock (s : State) (l : List Byte) :
    KeepsPc s (s.setVBlock l) ∧ KeepsRest s (s.setVBlock l) := by
  simp [KeepsPc, KeepsRest, KeepsIndex, KeepsStack, KeepsTimers, KeepsLatches, KeepsScreen,
    KeepsMemory, KeepsHost]

/-- Settles O51: FX65 is a write of the bytes read to V0 upward, where the block exists. -/
theorem registerBlockIsLoadedFromTheIndex : Obligations.RegisterBlockIsLoadedFromTheIndex := by
  intro s x
  refine ⟨decode_encode (.opFX65 x), fun hin => ?loads, fun hout => ?faults⟩
  case loads =>
    have he : exec (.opFX65 x) s = .next (s.setVBlock (s.readBytes s.i.toNat (x.val + 1))) :=
      State.withBlock_of_exists _ _ _ (.inr (Nat.succ_le_succ hin))
    refine ⟨_, he, fun k hk => ?inside, fun k hk => ?outside,
      keepsAllButRegs_setVBlock s _⟩ <;>
    rw [State.getV_setVBlock, State.readBytes_getD]
    case inside => exact if_pos (Nat.lt_succ_of_le hk)
    case outside => exact if_neg (Nat.not_lt.2 hk)
  case faults => exact (exec_eq_fault_iff (.opFX65 x) s _).2 ⟨hout, rfl⟩

/-! Adding to the index register. -/

/-- The sum under wrap16, the only policy (R202). -/
theorem State.indexSum_toNat (s : State) (b : Byte) :
    (s.indexSum b).toNat = (s.i.toNat + b.toNat) % 65536 := by
  unfold State.indexSum
  cases s.config.indexOverflow with
  | wrap16 => exact (BitVec.toNat_add ..).trans (by rw [zextByte_toNat])

/-- Settles O48: FX1E is one write to I. -/
theorem indexAddWrapsAtSixteenBits : Obligations.IndexAddWrapsAtSixteenBits := fun s x =>
  have he : exec (.opFX1E x) s = .next (s.setI (s.indexSum (s.getV x))) := rfl
  ⟨decode_encode (.opFX1E x), _, he, s.indexSum_toNat _, writesOnlyIndex_setI ..⟩

/-- Settles O8: copying no bytes leaves the blank state. -/
theorem resetIsInitializeWithoutARom : Obligations.ResetIsInitializeWithoutARom :=
  ⟨initCore_of_length_le standardConfig (Nat.zero_le _), rfl, rfl, rfl⟩

end Sys2Proof.Machine
end

section
/-! Drawing (43_display.md R172, R173): the sprite of a DXYN as the rows of its drawing, and a
second draw of it. -/

open Sys2Proof.Claims

namespace Sys2Proof.Machine

/-- The rows DXYN reads cover what the loop of 43_display.md covers. -/
theorem rowsCover_readBytes_iff (s : State) (x y : RegNo) (n : Fin 16) (c : Fin 64) (r : Fin 32) :
    RowsCover (s.spriteColumn x) (s.spriteRow y) (s.readBytes s.i.toNat n.val) c r ↔
      SpriteCovers s x y n c r := by
  constructor
  · rintro ⟨row, hrow, col, hcol, hbit, hc, hr⟩
    rw [State.readBytes_length] at hrow
    rw [State.readBytes_getD, if_pos hrow] at hbit
    exact ⟨row, col, hrow, hcol, hbit, hc, hr⟩
  · rintro ⟨row, col, hrow, hcol, hbit, hc, hr⟩
    refine ⟨row, by rwa [State.readBytes_length], col, hcol, ?_, hc, hr⟩
    rw [State.readBytes_getD, if_pos hrow]
    exact hbit

theorem drawn_toggles (s : State) (x y : RegNo) (n : Fin 16) :
    Toggles (SpriteCovers s x y n) (s.fb, false) (s.drawn x y n) :=
  (plotRows_toggles _ _ _ _ (by rw [State.readBytes_length]; omega)).congr
    (rowsCover_readBytes_iff s x y n)

theorem flagIs_collisionFlag {hit : Bool} {p : Prop} (h : hit = true ↔ p) :
    flagIs (collisionFlag hit) p := by
  cases hit <;> simp [flagIs, collisionFlag, flagByte, ← h]

/-- Settles O35: the drawing toggles the pixels the sprite covers, and its hit is what VF is written
from. -/
theorem drawTogglesTheSpritesPixels : Obligations.DrawTogglesTheSpritesPixels := by
  intro s x y n
  refine ⟨decode_encode (.opDXYN x y n), fun hin => ?draws, fun hout => ?faults⟩
  case draws =>
    have hmem : memSize = 0x1000 := rfl
    have he := State.withBlock_of_exists s n.val
      (.next ({ s with fb := (s.drawn x y n).1 }.setV regF (collisionFlag (s.drawn x y n).2)))
      (by omega)
    have htoggles := drawn_toggles s x y n
    have hhit : (s.drawn x y n).2 = true ↔ ∃ c r, SpriteCovers s x y n c r ∧ s.pixel c r = true :=
      htoggles.hit.trans (or_iff_right Bool.false_ne_true)
    refine ⟨_, he, htoggles.pixel_on, htoggles.pixel_off, ?_, fun k hk => ?_, rfl, rfl,
      ⟨rfl, fun _ => rfl⟩, ⟨rfl, rfl⟩, ⟨fun _ => rfl, rfl⟩, fun _ => rfl, rfl, rfl, rfl, rfl, rfl⟩
    · rw [State.getV_setV_same]
      exact flagIs_collisionFlag hhit
    · exact State.getV_setV_ne _ _ _ _ (List.ne_of_not_mem_cons hk)
  case faults =>
    obtain ⟨hpos, hbig⟩ := hout
    exact (exec_eq_fault_iff (.opDXYN x y n) s _).2 ⟨hpos, hbig, rfl⟩

/-- What a draw that completes leaves on the screen and in VF. -/
theorem drawn_of_exec {s t : State} {x y : RegNo} {n : Fin 16}
    (h : exec (.opDXYN x y n) s = .next t) :
    (∀ c r, SpriteCovers s x y n c r → t.pixel c r = !s.pixel c r) ∧
    (∀ c r, ¬SpriteCovers s x y n c r → t.pixel c r = s.pixel c r) ∧
    flagIs (t.getV regF) (∃ c r, SpriteCovers s x y n c r ∧ s.pixel c r = true) := by
  obtain ⟨-, hdraws, hfaults⟩ := drawTogglesTheSpritesPixels s x y n
  have hin : n.val = 0 ∨ s.i.toNat + (n.val - 1) ≤ 0xFFF := by
    by_contra hout
    cases (hfaults (by omega)).symm.trans h
  obtain ⟨t', ht', hon, hoff, hflag, -⟩ := hdraws hin
  cases ht'.symm.trans h
  exact ⟨hon, hoff, hflag⟩

theorem flagIs_congr {b : Byte} {p q : Prop} (h : flagIs b p) (hpq : p ↔ q) : flagIs b q :=
  propext hpq ▸ h

/-- Settles O36: both draws cover the same pixels, so each is toggled twice or never, and the second
draw finds on exactly those of them that were off. -/
theorem drawingTwiceRestoresTheScreen : Obligations.DrawingTwiceRestoresTheScreen := by
  intro s s' t u x y n hfirst hscreen hmem hx hy hi hsecond
  obtain ⟨hon, hoff, hflag⟩ := drawn_of_exec hfirst
  obtain ⟨hon', hoff', hflag'⟩ := drawn_of_exec hsecond
  have hcovers (c r) : SpriteCovers s' x y n c r ↔ SpriteCovers s x y n c r := by
    simp only [SpriteCovers, hx, hy, hi, hmem _]
  have hfound : (∃ c r, SpriteCovers s' x y n c r ∧ s'.pixel c r = true) ↔
      ∃ c r, SpriteCovers s x y n c r ∧ s.pixel c r = false := by
    refine exists_congr fun c => exists_congr fun r => ?_
    rw [hcovers]
    refine and_congr_right fun hc => ?_
    rw [hscreen, hon c r hc, Bool.not_eq_true']
  have hvf := flagIs_congr hflag' hfound
  refine ⟨fun c r => ?restored, hvf, fun hclear => ⟨?firstVF, flagIs_congr hvf ?secondVF⟩⟩
  case restored =>
    by_cases hc : SpriteCovers s x y n c r
    · rw [hon' c r ((hcovers c r).2 hc), hscreen, hon c r hc, Bool.not_not]
    · rw [hoff' c r (mt (hcovers c r).1 hc), hscreen, hoff c r hc]
  case firstVF =>
    refine hflag.2 fun ⟨c, r, _, hpixel⟩ => ?_
    rw [hclear c r] at hpixel
    cases hpixel
  case secondVF => simp [hclear]

end Sys2Proof.Machine
end
